-- ==== Sys2Proof/Word.lean ====
section
/-! DEFINITION. The bit-vector types of the command port and of the registers (30_encoding.md R80, 10_state.md R25 to R33). -/

namespace Sys2Proof

/-- An operand word, a response data word: 32 signals of the port (R80). -/
abbrev Word := BitVec 32

/-- The command header `cmd_hdr` (R80, R81). -/
abbrev Header := BitVec 16

/-- A register of TW bits (timestamps and intervals), TW ≤ 32 (R7). Bits TW and above are 0. -/
abbrev TimeReg := BitVec 32

/-- A register of SW bits (a ZX sample), SW ≤ 62 − 16 = 46 (R7). Bits SW and above are 0. -/
abbrev SampleReg := BitVec 46

/-- A register of SMW = TW + 15 ≤ 47 bits (CT.SMOOTH, R7, R33). Bits SMW and above are 0. -/
abbrev SmoothReg := BitVec 47

end Sys2Proof
end

