-- ==== Sys2Proof/Syntax.lean ====
section
/-! DEFINITION. A command as the port carries it, and the 21 commands of opcode_table.json as syntax. -/

namespace Sys2Proof

/-- A command as presented on the port: header, operand A, operand B, all together (30_encoding.md R80, R81). -/
structure Command where
  hdr : Header
  a   : Word
  b   : Word
  deriving DecidableEq, Repr

/-- One constructor per row of the opcode map (R84). `inst` and `instb` are the header's INST and INSTB; `a` and `b` the operand words the command uses. An operand the spec says is ignored (R82, R83) is no argument. -/
inductive Instr where
  | pwcSetwin (inst : Nat) (a b : Word)
  | pwcClassify (inst : Nat) (a : Word)
  | necInit (inst : Nat)
  | necEdge (inst : Nat) (a : Word)
  | necCheck (a : Word)
  | necCheckext (a : Word)
  | nvInit (inst : Nat)
  | nvEdge (inst : Nat) (a : Word) (level : Bool)
  | nvIdle (inst : Nat) (a : Word)
  | zxInit (inst : Nat) (a b : Word)
  | zxFeed (inst : Nat) (a b : Word)
  | ctInit (inst : Nat)
  | ctUpdate (inst : Nat) (a : Word)
  | ctIsvalid (inst : Nat)
  | ctIsrotating (inst : Nat) (a b : Word)
  | ctCycleus (inst : Nat)
  | ctSmoothus (inst : Nat)
  | ctSpeedclose (inst instb : Nat) (a : Word)
  | ctAvgclose (inst instb : Nat) (a : Word)
  | regRd (inst : Nat) (a : Word)
  | regWr (inst : Nat) (a b : Word)
  deriving DecidableEq, Repr

end Sys2Proof
end

