-- ==== Sys2Proof/WellFormed.lean ====
section
/-! DEFINITION. Which terms of `Instr` a header can carry: INST and INSTB are 4-bit fields (30_encoding.md R81). Whether the instance exists is no matter of form: the command then answers ERR_INST (R88). -/

namespace Sys2Proof

/-- The instance indices fit their 4-bit header fields (R81). -/
def Instr.wf : Instr → Bool
  | .pwcSetwin inst _ _ => decide (inst < 16)
  | .pwcClassify inst _ => decide (inst < 16)
  | .necInit inst => decide (inst < 16)
  | .necEdge inst _ => decide (inst < 16)
  | .necCheck _ => true
  | .necCheckext _ => true
  | .nvInit inst => decide (inst < 16)
  | .nvEdge inst _ _ => decide (inst < 16)
  | .nvIdle inst _ => decide (inst < 16)
  | .zxInit inst _ _ => decide (inst < 16)
  | .zxFeed inst _ _ => decide (inst < 16)
  | .ctInit inst => decide (inst < 16)
  | .ctUpdate inst _ => decide (inst < 16)
  | .ctIsvalid inst => decide (inst < 16)
  | .ctIsrotating inst _ _ => decide (inst < 16)
  | .ctCycleus inst => decide (inst < 16)
  | .ctSmoothus inst => decide (inst < 16)
  | .ctSpeedclose inst instb _ => decide (inst < 16) && decide (instb < 16)
  | .ctAvgclose inst instb _ => decide (inst < 16) && decide (instb < 16)
  | .regRd inst _ => decide (inst < 16)
  | .regWr inst _ _ => decide (inst < 16)

end Sys2Proof
end

