-- ==== Sys2Proof/Decode.lean ====
section
/-! DEFINITION. Decoding a command (30_encoding.md R81 to R89): total on every header, rejecting by name; then the encoder. -/

namespace Sys2Proof

/-- Why a header is illegal. Every reason answers ERR_OPC (60_exceptions.md R240); the names are the model's (log 11). -/
inductive Reject where
  /-- RSV ≠ 000 (R86). -/
  | reservedBits
  /-- OPC is one of the reserved values (R85). -/
  | reservedOpcode
  /-- INSTB ≠ 0000 outside CT_SPEEDCLOSE and CT_AVGCLOSE (R87). -/
  | instbNonzero
  /-- INST ≠ 0000 on NEC_CHECK or NEC_CHECKEXT (R88). -/
  | instNonzero
  deriving DecidableEq, Repr

/-- OPC, bits 15:11 (R81). -/
def Command.opc (c : Command) : Nat := (c.hdr.extractLsb' 11 5).toNat

/-- RSV, bits 10:8 (R81). -/
def Command.rsv (c : Command) : Nat := (c.hdr.extractLsb' 8 3).toNat

/-- INSTB, bits 7:4 (R81). -/
def Command.instb (c : Command) : Nat := (c.hdr.extractLsb' 4 4).toNat

/-- INST, bits 3:0 (R81). -/
def Command.inst (c : Command) : Nat := (c.hdr.extractLsb' 0 4).toNat

/-- The level operand B[0] (R82). -/
def Command.level (c : Command) : Bool := c.b.getLsbD 0

/-- An opcode whose INSTB must be 0000 (R87). -/
def oneInst (c : Command) (i : Instr) : Except Reject Instr :=
  if c.instb = 0 then .ok i else .error .instbNonzero

/-- An opcode whose INSTB and INST must both be 0000 (R87, R88). -/
def noInst (c : Command) (i : Instr) : Except Reject Instr :=
  if c.instb = 0 then (if c.inst = 0 then .ok i else .error .instNonzero) else .error .instbNonzero

/-- The opcode map (R84), every OPC value it does not list being reserved (R85). -/
def decodeOpcode (c : Command) : Except Reject Instr :=
  match c.opc with
  | 0x01 => oneInst c (.pwcSetwin c.inst c.a c.b)
  | 0x02 => oneInst c (.pwcClassify c.inst c.a)
  | 0x04 => oneInst c (.necInit c.inst)
  | 0x05 => oneInst c (.necEdge c.inst c.a)
  | 0x06 => noInst c (.necCheck c.a)
  | 0x07 => noInst c (.necCheckext c.a)
  | 0x08 => oneInst c (.nvInit c.inst)
  | 0x09 => oneInst c (.nvEdge c.inst c.a c.level)
  | 0x0A => oneInst c (.nvIdle c.inst c.a)
  | 0x0C => oneInst c (.zxInit c.inst c.a c.b)
  | 0x0D => oneInst c (.zxFeed c.inst c.a c.b)
  | 0x10 => oneInst c (.ctInit c.inst)
  | 0x11 => oneInst c (.ctUpdate c.inst c.a)
  | 0x12 => oneInst c (.ctIsvalid c.inst)
  | 0x13 => oneInst c (.ctIsrotating c.inst c.a c.b)
  | 0x14 => oneInst c (.ctCycleus c.inst)
  | 0x15 => oneInst c (.ctSmoothus c.inst)
  | 0x16 => .ok (.ctSpeedclose c.inst c.instb c.a)
  | 0x17 => .ok (.ctAvgclose c.inst c.instb c.a)
  | 0x1E => oneInst c (.regRd c.inst c.a)
  | 0x1F => oneInst c (.regWr c.inst c.a c.b)
  | _ => .error .reservedOpcode

/-- The command a header and its operands stand for, or the reason the header is illegal (R84 to R89). -/
def decode (c : Command) : Except Reject Instr :=
  if c.rsv = 0 then decodeOpcode c else .error .reservedBits

/-- `cmd_hdr = {OPC, 000, INSTB, INST}` (R81). -/
def header (opc instb inst : Nat) : Header := BitVec.ofNat 16 (opc * 2048 + instb * 16 + inst)

/-- The level operand as word B: B[0] (R82). -/
def levelWord (level : Bool) : Word := if level then 1 else 0

/-- The command of an instruction, ignored operands 0 (R81 to R84). -/
def encode : Instr → Command
  | .pwcSetwin inst a b => ⟨header 0x01 0 inst, a, b⟩
  | .pwcClassify inst a => ⟨header 0x02 0 inst, a, 0⟩
  | .necInit inst => ⟨header 0x04 0 inst, 0, 0⟩
  | .necEdge inst a => ⟨header 0x05 0 inst, a, 0⟩
  | .necCheck a => ⟨header 0x06 0 0, a, 0⟩
  | .necCheckext a => ⟨header 0x07 0 0, a, 0⟩
  | .nvInit inst => ⟨header 0x08 0 inst, 0, 0⟩
  | .nvEdge inst a level => ⟨header 0x09 0 inst, a, levelWord level⟩
  | .nvIdle inst a => ⟨header 0x0A 0 inst, a, 0⟩
  | .zxInit inst a b => ⟨header 0x0C 0 inst, a, b⟩
  | .zxFeed inst a b => ⟨header 0x0D 0 inst, a, b⟩
  | .ctInit inst => ⟨header 0x10 0 inst, 0, 0⟩
  | .ctUpdate inst a => ⟨header 0x11 0 inst, a, 0⟩
  | .ctIsvalid inst => ⟨header 0x12 0 inst, 0, 0⟩
  | .ctIsrotating inst a b => ⟨header 0x13 0 inst, a, b⟩
  | .ctCycleus inst => ⟨header 0x14 0 inst, 0, 0⟩
  | .ctSmoothus inst => ⟨header 0x15 0 inst, 0, 0⟩
  | .ctSpeedclose inst instb a => ⟨header 0x16 instb inst, a, 0⟩
  | .ctAvgclose inst instb a => ⟨header 0x17 instb inst, a, 0⟩
  | .regRd inst a => ⟨header 0x1E 0 inst, a, 0⟩
  | .regWr inst a b => ⟨header 0x1F 0 inst, a, b⟩

/-- The 80 bits of a command numbered as opcode_table.json numbers a row's: the header is bits 15:0, A is bits 47:16, B is bits 79:48 (log 5). -/
def Command.ofBits (w : Nat) : Command :=
  ⟨BitVec.ofNat 16 w, BitVec.ofNat 32 (w / 2 ^ 16), BitVec.ofNat 32 (w / 2 ^ 48)⟩

/-- The command whose low `nbits` bits are w's and whose other bits are 0. -/
def Command.ofTableBits (nbits w : Nat) : Command := Command.ofBits (w % 2 ^ nbits)

/-- The instruction the decoder reads from `w`, `none` where it rejects it. -/
def decodeTableWord (nbits w : Nat) : Option Instr :=
  match decode (Command.ofTableBits nbits w) with
  | .ok i => some i
  | .error _ => none

end Sys2Proof
end

