-- ==== Sys2Proof/Config.lean ====
section
/-! DEFINITION. What an implementation of the block fixes (00_scope.md R7), the constants the spec hard-wires, and the values it leaves open. -/

namespace Sys2Proof

/-- OPEN, no default (R7, D14): whether NEC_CHECK also tests the address bytes in the machine `State.reset` describes. A free value: nothing constrains it (log 2). Safe. -/
opaque Config.necPlainAddrCheck : Bool

/-- OPEN (D2, 20_memory.md R69): where the block sits on the platform's bus. Read by no rule, so by nothing in the model (log 13). Safe. -/
opaque Config.base : Nat

/-- The bits of a sample operand above B[31] when SW > 32: R7 allows such an SW, and R82's operand word B has 32 bits. A free value (log 7). Safe. -/
opaque Config.sampleBitsAboveB : Word → BitVec 14

/-- NV_ANCHOR_US, hardwired (R7, R29, R153). -/
def Config.nvAnchorUs : Nat := 102

/-- NV_ANCHOR_TOL_US, hardwired (R7, R29, R153). -/
def Config.nvAnchorTolUs : Nat := 5

/-- NEC.HDR's reset value (R26). -/
def Config.necHdrReset : Nat := 13500

/-- NEC.ONE's reset value (R26). -/
def Config.necOneReset : Nat := 2250

/-- NEC.ZERO's reset value (R26). -/
def Config.necZeroReset : Nat := 1120

/-- NEC.TOL's reset value: "approximately 300" in the source, exactly 300 by D13 (R26). -/
def Config.necTolReset : Nat := 300

/-- The parameters of R7 that rules read: the width TW of timestamps and intervals, the width SW of a ZX sample, and the OPEN parameter of R130. SMW is derived (`Params.smw`); the instance counts are `Counts`. -/
structure Params where
  tw : Nat
  sw : Nat
  necPlainAddrCheck : Bool
  deriving DecidableEq, Repr

/-- SMW = TW + 15, the width of CT.SMOOTH (R7). -/
def Params.smw (p : Params) : Nat := p.tw + 15

/-- The ranges R7 gives TW (16..32) and SW (2..62 − TW). -/
def Params.legal (p : Params) : Bool :=
  decide (16 ≤ p.tw) && decide (p.tw ≤ 32) && decide (2 ≤ p.sw) && decide (p.sw + p.tw ≤ 62)

/-- R7's defaults; the OPEN parameter has none and stays free. -/
def Params.default : Params := ⟨32, 16, Config.necPlainAddrCheck⟩

/-- How many instances of each sub-block there are: N_PWC, N_NEC, N_NV, N_ZX, N_CT (R7). -/
structure Counts where
  pwc : Nat
  nec : Nat
  nv  : Nat
  zx  : Nat
  ct  : Nat
  deriving DecidableEq, Repr

/-- The ranges R7 gives the counts: 1..16, and 2..16 for N_CT. -/
def Counts.legal (n : Counts) : Bool :=
  decide (1 ≤ n.pwc ∧ n.pwc ≤ 16) && decide (1 ≤ n.nec ∧ n.nec ≤ 16) && decide (1 ≤ n.nv ∧ n.nv ≤ 16)
    && decide (1 ≤ n.zx ∧ n.zx ≤ 16) && decide (2 ≤ n.ct ∧ n.ct ≤ 16)

/-- R7's default counts. -/
def Counts.default : Counts := ⟨1, 1, 1, 1, 2⟩

/-- The draws of one reset (70_reset_and_hazards.md R271): for every field whose reset value the spec leaves unspecified, an unconstrained value for each instance. A register takes its draw's low bits, so every pattern of its width can be drawn. -/
structure Draws where
  pwcMin     : Nat → TimeReg
  pwcMax     : Nat → TimeReg
  pwcPrev    : Nat → TimeReg
  necPrev    : Nat → TimeReg
  nvIdle     : Nat → TimeReg
  nvPrevRise : Nat → TimeReg
  nvLastEdge : Nat → TimeReg
  zxPrevT    : Nat → TimeReg
  zxPrevF    : Nat → SampleReg
  zxLastX    : Nat → TimeReg
  ctE        : Nat → BitVec 4
  ctLastMark : Nat → TimeReg
  ctSmooth   : Nat → SmoothReg

/-- The all-zero draw: R271's "An implementation may clear the unspecified fields to 0". DESIGN CHOICE for `State.reset`, unsafe (log 3). -/
def Draws.zero : Draws :=
  ⟨fun _ => 0, fun _ => 0, fun _ => 0, fun _ => 0, fun _ => 0, fun _ => 0, fun _ => 0, fun _ => 0,
   fun _ => 0, fun _ => 0, fun _ => 0, fun _ => 0, fun _ => 0⟩

end Sys2Proof
end

