-- ==== Sys2Proof/Machine/Operands.lean ====
section
/-! DEFINITION. The spec's notation for reading and writing bit patterns (00_scope.md R9, R10, R11) and the operand forms of a command (30_encoding.md R82). -/

namespace Sys2Proof.Machine

/-- `u_n(v[n−1:0])`: the unsigned number of a pattern's low n bits (R9). -/
def uVal (n : Nat) {w : Nat} (v : BitVec w) : Nat := (v.setWidth n).toNat

/-- `s_n(v[n−1:0])`: the two's-complement number of a pattern's low n bits (R9). -/
def sVal (n : Nat) {w : Nat} (v : BitVec w) : Int := (v.setWidth n).toInt

/-- `wrap_n(x)`, the n-bit pattern of x modulo 2^n (R9), held in w bits with the bits above n zero. -/
def wrapTo (n : Nat) {w : Nat} (x : Int) : BitVec w := (BitVec.ofInt n x).setWidth w

/-- `v[n−1:0]` (R9), held in m bits with the bits above n zero. -/
def lowBits (n : Nat) {w m : Nat} (v : BitVec w) : BitVec m := (v.setWidth n).setWidth m

/-- `zext_32` of an n-bit pattern (R9). -/
def zext32 (n : Nat) {w : Nat} (v : BitVec w) : Word := (v.setWidth n).setWidth 32

/-- `sext_m` of an n-bit pattern (R9). -/
def sextTo (m n : Nat) {w : Nat} (v : BitVec w) : BitVec m := (v.setWidth n).signExtend m

/-- `interval(t, p) = s_TW(wrap_TW(u_TW(t) − u_TW(p)))` (R11, 10_state.md R21). -/
def interval (tw : Nat) (t p : TimeReg) : Int :=
  (BitVec.ofInt tw ((uVal tw t : Int) - (uVal tw p : Int))).toInt

/-- `floor_div(n, d)`, the floor of the exact rational n/d (R10, C5). -/
def floorDiv (n d : Int) : Int := Int.fdiv n d

/-- `a >>a k`, floor(a / 2^k) (R10). -/
def sra (a : Int) (k : Nat) : Int := a >>> k

/-- `a << k`, a × 2^k (R10). -/
def shl (a : Int) (k : Nat) : Int := a * 2 ^ k

/-- A timestamp operand, `A[TW−1:0]` (R82). -/
def timeOperand (p : Params) (a : Word) : TimeReg := lowBits p.tw a

/-- A duration operand, `u_TW(X[TW−1:0])` (R82). -/
def durationOperand (p : Params) (x : Word) : Nat := uVal p.tw x

/-- A ZX sample operand, `B[SW−1:0]` (R82). Where SW > 32 the bits above B[31] are free: the port carries no such bits (log 7). -/
def sampleOperand (p : Params) (b : Word) : SampleReg :=
  if p.sw ≤ 32 then lowBits p.sw b else lowBits p.sw (Config.sampleBitsAboveB b ++ b)

/-- A fraction operand, `u_32(A[31:0])` (R82). -/
def fractionOperand (a : Word) : Nat := a.toNat

end Sys2Proof.Machine
end

