-- ==== Sys2Proof/Machine/Flags.lean ====
section
/-! DEFINITION. The conditions commands compute. The block has no flags register (10_state.md R23): a condition is seen only as a Boolean response word or as the branch a rule takes on it. -/

namespace Sys2Proof.Machine

/-- A Boolean result: 1 or 0 in bit 0, bits 31:1 zero (30_encoding.md R95). -/
def boolWord (v : Bool) : Word := if v then 1 else 0

/-- The closed window `[lo, hi]` in exact integers (40_pulse_width_classifier.md R102). -/
def inRange (lo hi dt : Int) : Bool := decide (lo ≤ dt) && decide (dt ≤ hi)

/-- `centre − tol ≤ dt ≤ centre + tol` in exact integers, both ends inclusive (41_nec_decoder.md R121, 42_nvidia_shutter_decoder.md R153, D11). -/
def inWindow (centre tol : Nat) (dt : Int) : Bool := inRange ((centre : Int) - tol) ((centre : Int) + tol) dt

/-- The NEC command byte is the complement of the byte above it: `(code[23:16] xor code[31:24]) = 0xFF` (R130, R131). -/
def necCommandOk (code : Word) : Bool := (code.extractLsb' 16 8 ^^^ code.extractLsb' 24 8) == 0xFF#8

/-- The NEC address byte is the complement of the byte above it: `(code[7:0] xor code[15:8]) = 0xFF` (R130). -/
def necAddressOk (code : Word) : Bool := (code.extractLsb' 0 8 ^^^ code.extractLsb' 8 8) == 0xFF#8

/-- A sample's sign class: negative or not, zero being non-negative (43_zero_crossing_interpolator.md R181). -/
def negative (f : Int) : Bool := decide (f < 0)

/-- A crossing: the two samples are in different sign classes (R183). -/
def crosses (f0 f1 : Int) : Bool := negative f0 != negative f1

/-- `close(x, y, fraction) = abs(x − y) × fraction ≤ x` in exact integers (44_cycle_tracker.md R213). -/
def closeTo (x y : Int) (fraction : Nat) : Bool := decide (((x - y).natAbs : Int) * fraction ≤ x)

end Sys2Proof.Machine
end

