-- ==== Sys2Proof/Machine/State.lean ====
section
/-! DEFINITION. The state of the block (10_state.md), its response port, the outcomes' reasons, and reset (70_reset_and_hazards.md R270, R271). -/

namespace Sys2Proof.Machine

/-- A PWC instance (R25). MIN and MAX are read signed, PREV unsigned. -/
structure PwcRegs where
  min  : TimeReg
  max  : TimeReg
  prev : TimeReg
  deriving DecidableEq, Repr

/-- NEC.STATE (R27): AWAIT = 0, COLLECT = 1. -/
inductive NecState where
  | await
  | collect
  deriving DecidableEq, Repr

/-- A NEC instance (R26). -/
structure NecRegs where
  hdr    : TimeReg
  one    : TimeReg
  zero   : TimeReg
  tol    : TimeReg
  state  : NecState
  bitIdx : BitVec 6
  acc    : Word
  prev   : TimeReg
  deriving DecidableEq, Repr

/-- NV.PHASE (R30): OFF = 0, LEFT_OPEN = 1, RIGHT_OPEN = 2; the code 3 is never produced (log 9). -/
inductive NvPhase where
  | off
  | leftOpen
  | rightOpen
  deriving DecidableEq, Repr

/-- A NV instance (R29). ANCHOR and ANCHOR_TOL are hardwired and stand in Config (log 12). -/
structure NvRegs where
  idle     : TimeReg
  phase    : NvPhase
  sync     : Bool
  pos      : BitVec 3
  prevRise : TimeReg
  lastEdge : TimeReg
  deriving DecidableEq, Repr

/-- A ZX instance (R32). -/
structure ZxRegs where
  prevT : TimeReg
  prevF : SampleReg
  lastX : TimeReg
  deriving DecidableEq, Repr

/-- A CT instance (R33). CYCLE and SMOOTH are read signed. -/
structure CtRegs where
  e        : BitVec 4
  cycle    : TimeReg
  lastMark : TimeReg
  smooth   : SmoothReg
  deriving DecidableEq, Repr

/-- `rsp_status` (30_encoding.md R95). -/
inductive Status where
  | ok
  | errOpc
  | errInst
  | errReg
  | errRo
  deriving DecidableEq, Repr

/-- A response (R95). -/
structure Response where
  status : Status
  data   : Word
  deriving DecidableEq, Repr

/-- The port's handshake state (30_encoding.md R97): nothing in flight; a command accepted, with the clock edges its result still waits for after the next one; or a response presented and not yet taken. -/
inductive Port where
  | idle
  | busy (c : Command) (wait : Nat)
  | answered (r : Response)
  deriving DecidableEq, Repr

/-- The block's state (R20): the register instances of the five sub-blocks and the port's handshake state. The number of instances of a sub-block is the length of its list. `params` (R7's parameters, log 1) and `pending` (the commands the host has yet to present, log 4) are the model's own fields. -/
structure State where
  params  : Params
  pwc     : List PwcRegs
  nec     : List NecRegs
  nv      : List NvRegs
  zx      : List ZxRegs
  ct      : List CtRegs
  port    : Port
  pending : List Command
  deriving DecidableEq, Repr

/-- The block has no fault state and never hangs (93_implementation_defined.md, 60_exceptions.md R241 to R244): nothing raises a fault. -/
inductive Fault where
  deriving DecidableEq, Repr

/-- Why an instruction has no meaning. -/
inductive Refusal where
  /-- Raised by an arm of `exec` whose instruction has no meaning yet: none. Safe. -/
  | notModelled (mnemonic : String)
  deriving DecidableEq, Repr

/-- What a step answers. -/
abbrev Result := Host.Outcome State Fault Refusal

/-- A PWC instance at reset: every field a draw (R271). -/
def PwcRegs.reset (p : Params) (d : Draws) (i : Nat) : PwcRegs :=
  ⟨lowBits p.tw (d.pwcMin i), lowBits p.tw (d.pwcMax i), lowBits p.tw (d.pwcPrev i)⟩

/-- A NEC instance at reset: the defaults, AWAIT, BITIDX and ACC 0, PREV a draw (R271). -/
def NecRegs.reset (p : Params) (d : Draws) (i : Nat) : NecRegs :=
  { hdr := BitVec.ofNat 32 Config.necHdrReset, one := BitVec.ofNat 32 Config.necOneReset
    zero := BitVec.ofNat 32 Config.necZeroReset, tol := BitVec.ofNat 32 Config.necTolReset
    state := .await, bitIdx := 0, acc := 0, prev := lowBits p.tw (d.necPrev i) }

/-- A NV instance at reset: OFF, unsynchronised, position 0, the other fields draws (R271). -/
def NvRegs.reset (p : Params) (d : Draws) (i : Nat) : NvRegs :=
  { idle := lowBits p.tw (d.nvIdle i), phase := .off, sync := false, pos := 0
    prevRise := lowBits p.tw (d.nvPrevRise i), lastEdge := lowBits p.tw (d.nvLastEdge i) }

/-- A ZX instance at reset: every field a draw (R271). -/
def ZxRegs.reset (p : Params) (d : Draws) (i : Nat) : ZxRegs :=
  ⟨lowBits p.tw (d.zxPrevT i), lowBits p.sw (d.zxPrevF i), lowBits p.tw (d.zxLastX i)⟩

/-- A CT instance at reset: CYCLE 0 (Unseen), the other fields draws (R271). -/
def CtRegs.reset (p : Params) (d : Draws) (i : Nat) : CtRegs :=
  ⟨d.ctE i, 0, lowBits p.tw (d.ctLastMark i), lowBits p.smw (d.ctSmooth i)⟩

/-- The block right after a reset with parameters `p`, instance counts `n` and the draws `d` (R270, R271): every instance reset, the port's handshake cleared, no command presented. -/
def State.resetWith (p : Params) (n : Counts) (d : Draws) : State :=
  { params := p
    pwc := (List.range n.pwc).map (PwcRegs.reset p d)
    nec := (List.range n.nec).map (NecRegs.reset p d)
    nv := (List.range n.nv).map (NvRegs.reset p d)
    zx := (List.range n.zx).map (ZxRegs.reset p d)
    ct := (List.range n.ct).map (CtRegs.reset p d)
    port := .idle
    pending := [] }

/-- The machine right after reset: R7's defaults, and 0 for every field R271 leaves unspecified. DESIGN CHOICE, unsafe (log 3): the statements about reset are made of `State.resetWith` for every draw. -/
def State.reset : State := State.resetWith Params.default Counts.default Draws.zero

end Sys2Proof.Machine
end

