-- ==== Sys2Proof/Machine/Ops.lean ====
section
/-! DEFINITION. The shared operations: answering a command, raising a command error, reaching one instance of a sub-block, and taking the next command. -/

namespace Sys2Proof.Machine

/-- The number of each sub-block's instances (R7, R20). -/
def State.counts (s : State) : Counts :=
  ⟨s.pwc.length, s.nec.length, s.nv.length, s.zx.length, s.ct.length⟩

/-- `rsp_status` as its 3-bit code: OK = 0 to ERR_RO = 4, values 5 to 7 never produced (30_encoding.md R95). -/
def Status.code : Status → BitVec 3
  | .ok => 0
  | .errOpc => 1
  | .errInst => 2
  | .errReg => 3
  | .errRo => 4

/-- NEC.STATE's register bit (10_state.md R27). -/
def NecState.code : NecState → BitVec 1
  | .await => 0
  | .collect => 1

/-- NV.PHASE's register bits (10_state.md R30). -/
def NvPhase.code : NvPhase → BitVec 2
  | .off => 0
  | .leftOpen => 1
  | .rightOpen => 2

/-- The tracker's stage, a view of CYCLE's sign (10_state.md R34). -/
inductive Lifecycle where
  | unseen
  | oneSample
  | running
  deriving DecidableEq, Repr

/-- Unseen at 0, OneSample below 0, Running above 0 (10_state.md R34, 44_cycle_tracker.md R201, C1). -/
def CtRegs.lifecycle (p : Params) (r : CtRegs) : Lifecycle :=
  if sVal p.tw r.cycle = 0 then .unseen else if sVal p.tw r.cycle < 0 then .oneSample else .running

/-- The response is presented on the port and held there (30_encoding.md R95, R97). -/
def State.answer (s : State) (st : Status) (d : Word) : State :=
  { s with port := .answered ⟨st, d⟩ }

/-- `resp(OK, d)` (00_scope.md R11). -/
def respond (s : State) (d : Word) : Result := .next (s.answer .ok d)

/-- `raise CmdError(e)`: the block's one exception (60_exceptions.md R241, R245). Status `e`, data 0, no state changed, nothing saved, no control transfer; there is nothing to return from (R246). -/
def raiseError (e : Status) (s : State) : Result := .next (s.answer e 0)

/-- A header the decoder rejects answers ERR_OPC, whatever the reason (R240, R242 step 1). -/
def rejectCommand (_why : Reject) (s : State) : Result := raiseError .errOpc s

/-- Instance `i` of the PWC takes the registers `r`. -/
def State.setPwc (s : State) (i : Nat) (r : PwcRegs) : State := { s with pwc := s.pwc.set i r }

/-- Instance `i` of the NEC takes the registers `r`. -/
def State.setNec (s : State) (i : Nat) (r : NecRegs) : State := { s with nec := s.nec.set i r }

/-- Instance `i` of the NV takes the registers `r`. -/
def State.setNv (s : State) (i : Nat) (r : NvRegs) : State := { s with nv := s.nv.set i r }

/-- Instance `i` of the ZX takes the registers `r`. -/
def State.setZx (s : State) (i : Nat) (r : ZxRegs) : State := { s with zx := s.zx.set i r }

/-- Instance `i` of the CT takes the registers `r`. -/
def State.setCt (s : State) (i : Nat) (r : CtRegs) : State := { s with ct := s.ct.set i r }

/-- A command on `PWC[inst]`: ERR_INST where there is no such instance (30_encoding.md R88, R242 step 2), else the registers and the data word `f` gives. -/
def onPwc (inst : Nat) (s : State) (f : PwcRegs → PwcRegs × Word) : Result :=
  match s.pwc[inst]? with
  | none => raiseError .errInst s
  | some r => respond (s.setPwc inst (f r).1) (f r).2

/-- A command on `NEC[inst]` (R88, R242 step 2). -/
def onNec (inst : Nat) (s : State) (f : NecRegs → NecRegs × Word) : Result :=
  match s.nec[inst]? with
  | none => raiseError .errInst s
  | some r => respond (s.setNec inst (f r).1) (f r).2

/-- A command on `NV[inst]` (R88, R242 step 2). -/
def onNv (inst : Nat) (s : State) (f : NvRegs → NvRegs × Word) : Result :=
  match s.nv[inst]? with
  | none => raiseError .errInst s
  | some r => respond (s.setNv inst (f r).1) (f r).2

/-- A command on `ZX[inst]` (R88, R242 step 2). -/
def onZx (inst : Nat) (s : State) (f : ZxRegs → ZxRegs × Word) : Result :=
  match s.zx[inst]? with
  | none => raiseError .errInst s
  | some r => respond (s.setZx inst (f r).1) (f r).2

/-- A command on `CT[inst]` (R88, R242 step 2). -/
def onCt (inst : Nat) (s : State) (f : CtRegs → CtRegs × Word) : Result :=
  match s.ct[inst]? with
  | none => raiseError .errInst s
  | some r => respond (s.setCt inst (f r).1) (f r).2

/-- A command that only reads `CT[inst]` (R88, R242 step 2). -/
def readCt (inst : Nat) (s : State) (f : CtRegs → Word) : Result :=
  match s.ct[inst]? with
  | none => raiseError .errInst s
  | some r => respond s (f r)

/-- A command that reads `CT[inst]` and `CT[instb]`, INST checked before INSTB (R88, R216, R242 step 2). -/
def readTwoCt (inst instb : Nat) (s : State) (f : CtRegs → CtRegs → Word) : Result :=
  match s.ct[inst]? with
  | none => raiseError .errInst s
  | some x =>
    match s.ct[instb]? with
    | none => raiseError .errInst s
    | some y => respond s (f x y)

/-- The command the next step performs, and the state it performs it in: the one in flight, else the host's next one, accepted once the held response is taken (30_encoding.md R97). None while the host presents nothing: the block then waits (70_reset_and_hazards.md R272). -/
def fetchCommand (s : State) : Option (Command × State) :=
  match s.port with
  | .busy c _ => some (c, { s with port := .idle })
  | _ =>
    match s.pending with
    | [] => none
    | c :: rest => some (c, { s with port := .idle, pending := rest })

/-- The host presents `c` next. A command already in flight is dropped, so that the very next step performs `c` (log 4). -/
def State.present (s : State) (c : Command) : State :=
  match s.port with
  | .busy _ _ => { s with port := .idle, pending := c :: s.pending }
  | _ => { s with pending := c :: s.pending }

end Sys2Proof.Machine
end

