-- ==== Sys2Proof/Machine/Ct.lean ====
section
/-! DEFINITION. The CycleTracker commands (44_cycle_tracker.md). -/

namespace Sys2Proof.Machine

/-- `SMOOTH >>a E`, the smoothed cycle length in microseconds (R33, R212). -/
def CtRegs.smoothUs (p : Params) (r : CtRegs) : Int := sra (sVal p.smw r.smooth) r.e.toNat

/-- The seed `n << e` (R204). -/
def CtRegs.seed (p : Params) (n : Int) (r : CtRegs) : SmoothReg := wrapTo p.smw (shl n r.e.toNat)

/-- The averaging step `s + n − (s >>a e)` (R205). -/
def CtRegs.average (p : Params) (n : Int) (r : CtRegs) : SmoothReg :=
  wrapTo p.smw (sVal p.smw r.smooth + n - r.smoothUs p)

/-- One mark: the first (R203), the second (R204), or a running one (R205), by CYCLE's sign alone (R201, R206). -/
def CtRegs.mark (p : Params) (t : TimeReg) (r : CtRegs) : CtRegs :=
  match r.lifecycle p with
  | .unseen => { r with cycle := wrapTo p.tw (-1), lastMark := t }
  | .oneSample =>
    { r with cycle := wrapTo p.tw (interval p.tw t r.lastMark), lastMark := t,
             smooth := r.seed p (interval p.tw t r.lastMark) }
  | .running =>
    { r with cycle := wrapTo p.tw (interval p.tw t r.lastMark), lastMark := t,
             smooth := r.average p (interval p.tw t r.lastMark) }

/-- CT_INIT (R200). -/
def execCtInit (inst : Nat) (s : State) : Result :=
  onCt inst s fun r => ({ r with cycle := 0 }, 0)

/-- CT_UPDATE (R202). -/
def execCtUpdate (inst : Nat) (a : Word) (s : State) : Result :=
  onCt inst s fun r => (r.mark s.params (timeOperand s.params a), 0)

/-- CT_ISVALID (R208). -/
def execCtIsvalid (inst : Nat) (s : State) : Result :=
  readCt inst s fun r => boolWord (decide (0 < sVal s.params.tw r.cycle))

/-- CT_ISROTATING: strictly below the threshold, whatever the stage (R209, D20); a negative elapsed time is below a threshold of 0 too, where R210's words differ (DESIGN CHOICE, log 17). -/
def execCtIsrotating (inst : Nat) (a b : Word) (s : State) : Result :=
  readCt inst s fun r =>
    boolWord (decide (interval s.params.tw (timeOperand s.params a) r.lastMark < durationOperand s.params b))

/-- CT_CYCLEUS (R211). -/
def execCtCycleus (inst : Nat) (s : State) : Result :=
  readCt inst s fun r => sextTo 32 s.params.tw r.cycle

/-- CT_SMOOTHUS (R212). -/
def execCtSmoothus (inst : Nat) (s : State) : Result :=
  readCt inst s fun r => wrapTo 32 (r.smoothUs s.params)

/-- CT_SPEEDCLOSE: tracker INST is the reference (R213, R214). -/
def execCtSpeedclose (inst instb : Nat) (a : Word) (s : State) : Result :=
  readTwoCt inst instb s fun x y =>
    boolWord (closeTo (sVal s.params.tw x.cycle) (sVal s.params.tw y.cycle) (fractionOperand a))

/-- CT_AVGCLOSE: the smoothed lengths in microseconds, each with its own E (R213, R215). -/
def execCtAvgclose (inst instb : Nat) (a : Word) (s : State) : Result :=
  readTwoCt inst instb s fun x y =>
    boolWord (closeTo (x.smoothUs s.params) (y.smoothUs s.params) (fractionOperand a))

end Sys2Proof.Machine
end

