-- ==== Sys2Proof/Machine/Nec.lean ====
section
/-! DEFINITION. The NecDecoder commands (41_nec_decoder.md). -/

namespace Sys2Proof.Machine

/-- The window test around the centre field `c` with the shared tolerance (R121). -/
def NecRegs.win (p : Params) (r : NecRegs) (c : TimeReg) (dt : Int) : Bool :=
  inWindow (uVal p.tw c) (uVal p.tw r.tol) dt

/-- The bit an interval stands for, the one window tested first; none where it is in neither window (R125, R127). -/
def NecRegs.bit (p : Params) (r : NecRegs) (dt : Int) : Option Bool :=
  if r.win p r.one dt then some true else if r.win p r.zero dt then some false else none

/-- A received bit goes into ACC at BITIDX, and BITIDX increments; the 32nd bit completes the frame and returns the code (R125, R126). -/
def NecRegs.accept (bit : Bool) (r : NecRegs) : NecRegs × Word :=
  let acc := r.acc ||| (boolWord bit <<< r.bitIdx.toNat)
  let idx := r.bitIdx.toNat + 1
  let r' := { r with acc := acc, bitIdx := BitVec.ofNat 6 idx }
  if idx = 32 then ({ r' with state := .await }, acc) else (r', 0)

/-- The transition on an interval, PREV aside: header search (R124), a bit (R125, R126), or the abort that leaves BITIDX and ACC (R127). -/
def NecRegs.onInterval (p : Params) (dt : Int) (r : NecRegs) : NecRegs × Word :=
  match r.state with
  | .await =>
    if r.win p r.hdr dt then ({ r with state := .collect, bitIdx := 0, acc := 0 }, 0) else (r, 0)
  | .collect =>
    match r.bit p dt with
    | some bit => r.accept bit
    | none => ({ r with state := .await }, 0)

/-- One edge: the interval is measured from PREV, and PREV takes the timestamp in every state (R122, R123). -/
def NecRegs.edge (p : Params) (t : TimeReg) (r : NecRegs) : NecRegs × Word :=
  { r with prev := t }.onInterval p (interval p.tw t r.prev)

/-- NEC_INIT (R120). -/
def execNecInit (inst : Nat) (s : State) : Result :=
  onNec inst s fun r => ({ r with state := .await, bitIdx := 0, acc := 0 }, 0)

/-- NEC_EDGE (R122). -/
def execNecEdge (inst : Nat) (a : Word) (s : State) : Result :=
  onNec inst s fun r => r.edge s.params (timeOperand s.params a)

/-- NEC_CHECK: the plain convention, the address bytes tested only under NEC_PLAIN_ADDR_CHECK (R130, D14). -/
def execNecCheck (a : Word) (s : State) : Result :=
  respond s (boolWord (necCommandOk a && (necAddressOk a || !s.params.necPlainAddrCheck)))

/-- NEC_CHECKEXT: the extended convention (R131, C2). -/
def execNecCheckext (a : Word) (s : State) : Result :=
  respond s (boolWord (necCommandOk a))

end Sys2Proof.Machine
end

