-- ==== Sys2Proof/Machine/Nv.lean ====
section
/-! DEFINITION. The NvidiaShutterDecoder commands and the wire format they assume (42_nvidia_shutter_decoder.md). -/

namespace Sys2Proof.Machine

/-- `PHASE_AT`, the phase at each position 0..6 of the cycle (R151, R154). -/
def phaseAt (pos : Nat) : NvPhase :=
  match pos with
  | 1 => .leftOpen
  | 4 => .rightOpen
  | 5 => .rightOpen
  | _ => .off

/-- The anchor test: a distance in `[102 − 5, 102 + 5]` (R153). -/
def isAnchor (d : Int) : Bool := inWindow Config.nvAnchorUs Config.nvAnchorTolUs d

/-- The next position of a synchronised decoder, 6 wrapping to 0 (R154, R156). -/
def nextPos (pos : Nat) : Nat := if pos < 6 then pos + 1 else 0

/-- Unsynchronised, at position 0, both eyes closed (R150, R157). -/
def NvRegs.drop (r : NvRegs) : NvRegs := { r with phase := .off, sync := false, pos := 0 }

/-- The position and phase after a counted rising edge at distance `d`: the anchor (R153), the optimistic advance (R154, R156), or no change. -/
def NvRegs.advance (d : Int) (r : NvRegs) : NvRegs :=
  if isAnchor d then { r with sync := true, pos := 0, phase := .off }
  else if r.sync then
    { r with pos := BitVec.ofNat 3 (nextPos r.pos.toNat), phase := phaseAt (nextPos r.pos.toNat) }
  else r

/-- One edge: a falling edge (R155) and a repeated timestamp (R162) change nothing; any other rising edge is counted (R151). -/
def NvRegs.edge (p : Params) (t : TimeReg) (level : Bool) (r : NvRegs) : NvRegs :=
  if level then
    if interval p.tw t r.prevRise = 0 then r
    else { r with prevRise := t, lastEdge := t }.advance (interval p.tw t r.prevRise)
  else r

/-- The idle check: strictly more than IDLE since LASTEDGE (R157). -/
def NvRegs.idleCheck (p : Params) (t : TimeReg) (r : NvRegs) : NvRegs :=
  if (uVal p.tw r.idle : Int) < interval p.tw t r.lastEdge then r.drop else r

/-- The phase as the data word (30_encoding.md R83). -/
def NvRegs.phaseWord (r : NvRegs) : Word := zext32 2 r.phase.code

/-- NV_INIT (R150). -/
def execNvInit (inst : Nat) (s : State) : Result :=
  onNv inst s fun r => (r.drop, 0)

/-- NV_EDGE (R151). -/
def execNvEdge (inst : Nat) (a : Word) (level : Bool) (s : State) : Result :=
  onNv inst s fun r =>
    (r.edge s.params (timeOperand s.params a) level, (r.edge s.params (timeOperand s.params a) level).phaseWord)

/-- NV_IDLE (R157). -/
def execNvIdle (inst : Nat) (a : Word) (s : State) : Result :=
  onNv inst s fun r =>
    (r.idleCheck s.params (timeOperand s.params a), (r.idleCheck s.params (timeOperand s.params a)).phaseWord)

/-- The four pulse shapes: left-open, left-close, right-open, right-close (R159). -/
inductive Shape where
  | lo
  | lc
  | ro
  | rc
  deriving DecidableEq, Repr

/-- A shape's edges: the time since its first edge, and the level, true for a rise (R159's table). -/
def Shape.edges : Shape → List (Nat × Bool)
  | .lo => [(0, true), (44, false)]
  | .lc => [(0, true), (24, false), (44, true), (69, false)]
  | .ro => [(0, true), (24, false), (69, true), (101, false)]
  | .rc => [(0, true), (24, false), (102, true), (142, false)]

/-- One cycle of the wire: `LO → LC → RO → RC` (R159). -/
def Shape.cycle : List Shape := [.lo, .lc, .ro, .rc]

end Sys2Proof.Machine
end

