-- ==== Sys2Proof/Machine/Pwc.lean ====
section
/-! DEFINITION. The PulseWidthClassifier commands (40_pulse_width_classifier.md). -/

namespace Sys2Proof.Machine

/-- The window `[w − tol, w + tol]`, wrapped to TW bits; PREV stays (R100). -/
def PwcRegs.setWindow (p : Params) (w tol : Nat) (r : PwcRegs) : PwcRegs :=
  { r with min := wrapTo p.tw ((w : Int) - tol), max := wrapTo p.tw ((w : Int) + tol) }

/-- `s(MIN) ≤ dt ≤ s(MAX)` for the interval since PREV (R102). -/
def PwcRegs.isMatch (p : Params) (t : TimeReg) (r : PwcRegs) : Bool :=
  inRange (sVal p.tw r.min) (sVal p.tw r.max) (interval p.tw t r.prev)

/-- PWC_SETWIN (R100). -/
def execPwcSetwin (inst : Nat) (a b : Word) (s : State) : Result :=
  onPwc inst s fun r => (r.setWindow s.params (durationOperand s.params a) (durationOperand s.params b), 0)

/-- PWC_CLASSIFY: PREV takes the timestamp whatever the result (R102, R104). -/
def execPwcClassify (inst : Nat) (a : Word) (s : State) : Result :=
  onPwc inst s fun r =>
    ({ r with prev := timeOperand s.params a }, boolWord (r.isMatch s.params (timeOperand s.params a)))

end Sys2Proof.Machine
end

