-- ==== Sys2Proof/Machine/RegMap.lean ====
section
/-! DEFINITION. The register map of 20_memory.md R61 and R62. -/

namespace Sys2Proof.Machine

/-- A sub-block, as an address names it (R61). -/
inductive Block where
  | pwc
  | nec
  | nv
  | zx
  | ct
  deriving DecidableEq, Repr

/-- Access rights (R62): RW, RO, or HW (hardwired, read-only). -/
inductive Access where
  | rw
  | ro
  | hw
  deriving DecidableEq, Repr

/-- The rows of R62. -/
inductive Reg where
  | pwcMin | pwcMax | pwcPrev
  | necHdr | necOne | necZero | necTol | necState | necBitIdx | necAcc | necPrev
  | nvAnchor | nvAnchorTol | nvIdle | nvPhase | nvSync | nvPos | nvPrevRise | nvLastEdge
  | zxPrevT | zxPrevF | zxLastX
  | ctE | ctCycle | ctLastMark | ctSmoothLo | ctSmoothHi
  deriving DecidableEq, Repr

/-- BLK of a sub-block (R61). -/
def Block.id : Block → BitVec 4
  | .pwc => 0
  | .nec => 1
  | .nv => 2
  | .zx => 3
  | .ct => 4

/-- The column BLK of R62. -/
def Reg.block : Reg → Block
  | .pwcMin | .pwcMax | .pwcPrev => .pwc
  | .necHdr | .necOne | .necZero | .necTol | .necState | .necBitIdx | .necAcc | .necPrev => .nec
  | .nvAnchor | .nvAnchorTol | .nvIdle | .nvPhase | .nvSync | .nvPos | .nvPrevRise | .nvLastEdge => .nv
  | .zxPrevT | .zxPrevF | .zxLastX => .zx
  | .ctE | .ctCycle | .ctLastMark | .ctSmoothLo | .ctSmoothHi => .ct

/-- The column REG of R62. -/
def Reg.number : Reg → BitVec 8
  | .pwcMin => 0x00
  | .pwcMax => 0x01
  | .pwcPrev => 0x10
  | .necHdr => 0x00
  | .necOne => 0x01
  | .necZero => 0x02
  | .necTol => 0x03
  | .necState => 0x10
  | .necBitIdx => 0x11
  | .necAcc => 0x12
  | .necPrev => 0x13
  | .nvAnchor => 0x00
  | .nvAnchorTol => 0x01
  | .nvIdle => 0x02
  | .nvPhase => 0x10
  | .nvSync => 0x11
  | .nvPos => 0x12
  | .nvPrevRise => 0x13
  | .nvLastEdge => 0x14
  | .zxPrevT => 0x10
  | .zxPrevF => 0x11
  | .zxLastX => 0x12
  | .ctE => 0x00
  | .ctCycle => 0x10
  | .ctLastMark => 0x11
  | .ctSmoothLo => 0x12
  | .ctSmoothHi => 0x13

/-- The column access of R62. -/
def Reg.access : Reg → Access
  | .pwcMin | .pwcMax | .necHdr | .necOne | .necZero | .necTol | .nvIdle | .ctE => .rw
  | .nvAnchor | .nvAnchorTol => .hw
  | .pwcPrev | .necState | .necBitIdx | .necAcc | .necPrev | .nvPhase | .nvSync | .nvPos | .nvPrevRise
  | .nvLastEdge | .zxPrevT | .zxPrevF | .zxLastX | .ctCycle | .ctLastMark | .ctSmoothLo | .ctSmoothHi => .ro

/-- The rows of R62 in its order. -/
def Reg.all : List Reg :=
  [.pwcMin, .pwcMax, .pwcPrev,
   .necHdr, .necOne, .necZero, .necTol, .necState, .necBitIdx, .necAcc, .necPrev,
   .nvAnchor, .nvAnchorTol, .nvIdle, .nvPhase, .nvSync, .nvPos, .nvPrevRise, .nvLastEdge,
   .zxPrevT, .zxPrevF, .zxLastX,
   .ctE, .ctCycle, .ctLastMark, .ctSmoothLo, .ctSmoothHi]

/-- A register address operand A: zeros in A[31:12], BLK in A[11:8], REG in A[7:0] (R61). -/
def Reg.address (r : Reg) : Word := (0#20 ++ r.block.id ++ r.number : BitVec 32)

/-- The row an address names; none where A[31:12] ≠ 0 or `{BLK, REG}` is no row of R62 (R61, R230). -/
def lookupReg (a : Word) : Option Reg :=
  if a.extractLsb' 12 20 = 0 then
    Reg.all.find? fun r => r.block.id == a.extractLsb' 8 4 && r.number == a.extractLsb' 0 8
  else none

/-- `count(BLK)` (45_register_access.md R230). -/
def State.count (s : State) : Block → Nat
  | .pwc => s.pwc.length
  | .nec => s.nec.length
  | .nv => s.nv.length
  | .zx => s.zx.length
  | .ct => s.ct.length

/-- `sext_64(SMOOTH)` (R62). -/
def CtRegs.smooth64 (p : Params) (r : CtRegs) : BitVec 64 := sextTo 64 p.smw r.smooth

/-- `read_value(BLK, REG, INST)` (R230), the column of R62, the hardwired rows constants: none where the block has no instance `inst`. -/
def State.readReg (s : State) (g : Reg) (inst : Nat) : Option Word :=
  match g with
  | .pwcMin => s.pwc[inst]?.map fun r => sextTo 32 s.params.tw r.min
  | .pwcMax => s.pwc[inst]?.map fun r => sextTo 32 s.params.tw r.max
  | .pwcPrev => s.pwc[inst]?.map fun r => zext32 s.params.tw r.prev
  | .necHdr => s.nec[inst]?.map fun r => zext32 s.params.tw r.hdr
  | .necOne => s.nec[inst]?.map fun r => zext32 s.params.tw r.one
  | .necZero => s.nec[inst]?.map fun r => zext32 s.params.tw r.zero
  | .necTol => s.nec[inst]?.map fun r => zext32 s.params.tw r.tol
  | .necState => s.nec[inst]?.map fun r => zext32 1 r.state.code
  | .necBitIdx => s.nec[inst]?.map fun r => zext32 6 r.bitIdx
  | .necAcc => s.nec[inst]?.map fun r => r.acc
  | .necPrev => s.nec[inst]?.map fun r => zext32 s.params.tw r.prev
  | .nvAnchor => s.nv[inst]?.map fun _ => BitVec.ofNat 32 Config.nvAnchorUs
  | .nvAnchorTol => s.nv[inst]?.map fun _ => BitVec.ofNat 32 Config.nvAnchorTolUs
  | .nvIdle => s.nv[inst]?.map fun r => zext32 s.params.tw r.idle
  | .nvPhase => s.nv[inst]?.map fun r => zext32 2 r.phase.code
  | .nvSync => s.nv[inst]?.map fun r => boolWord r.sync
  | .nvPos => s.nv[inst]?.map fun r => zext32 3 r.pos
  | .nvPrevRise => s.nv[inst]?.map fun r => zext32 s.params.tw r.prevRise
  | .nvLastEdge => s.nv[inst]?.map fun r => zext32 s.params.tw r.lastEdge
  | .zxPrevT => s.zx[inst]?.map fun r => zext32 s.params.tw r.prevT
  | .zxPrevF => s.zx[inst]?.map fun r => sextTo 32 s.params.sw r.prevF
  | .zxLastX => s.zx[inst]?.map fun r => zext32 s.params.tw r.lastX
  | .ctE => s.ct[inst]?.map fun r => zext32 4 r.e
  | .ctCycle => s.ct[inst]?.map fun r => sextTo 32 s.params.tw r.cycle
  | .ctLastMark => s.ct[inst]?.map fun r => zext32 s.params.tw r.lastMark
  | .ctSmoothLo => s.ct[inst]?.map fun r => (r.smooth64 s.params).extractLsb' 0 32
  | .ctSmoothHi => s.ct[inst]?.map fun r => (r.smooth64 s.params).extractLsb' 32 32

/-- `write_effect(BLK, REG, INST, B)` (R232): the column of R62, which gives the configuration fields alone an effect. -/
def State.writeReg (s : State) (g : Reg) (inst : Nat) (b : Word) : State :=
  match g with
  | .pwcMin => { s with pwc := s.pwc.modify inst fun r => { r with min := lowBits s.params.tw b } }
  | .pwcMax => { s with pwc := s.pwc.modify inst fun r => { r with max := lowBits s.params.tw b } }
  | .necHdr => { s with nec := s.nec.modify inst fun r => { r with hdr := lowBits s.params.tw b } }
  | .necOne => { s with nec := s.nec.modify inst fun r => { r with one := lowBits s.params.tw b } }
  | .necZero => { s with nec := s.nec.modify inst fun r => { r with zero := lowBits s.params.tw b } }
  | .necTol => { s with nec := s.nec.modify inst fun r => { r with tol := lowBits s.params.tw b } }
  | .nvIdle => { s with nv := s.nv.modify inst fun r => { r with idle := lowBits s.params.tw b } }
  | .ctE => { s with ct := s.ct.modify inst fun r => { r with e := b.setWidth 4 } }
  | .pwcPrev | .necState | .necBitIdx | .necAcc | .necPrev | .nvAnchor | .nvAnchorTol | .nvPhase | .nvSync
  | .nvPos | .nvPrevRise | .nvLastEdge | .zxPrevT | .zxPrevF | .zxLastX | .ctCycle | .ctLastMark
  | .ctSmoothLo | .ctSmoothHi => s

end Sys2Proof.Machine
end

