-- ==== Sys2Proof/Machine/RegAccess.lean ====
section
/-! DEFINITION. The register access commands (45_register_access.md). -/

namespace Sys2Proof.Machine

/-- REG_RD: ERR_REG, then ERR_INST, else the read value (R230, R242 step 3). -/
def execRegRd (inst : Nat) (a : Word) (s : State) : Result :=
  match lookupReg a with
  | none => raiseError .errReg s
  | some g =>
    match s.readReg g inst with
    | none => raiseError .errInst s
    | some v => respond s v

/-- REG_WR: ERR_REG, then ERR_INST, then ERR_RO, else the write effect (R232, R242 step 3). -/
def execRegWr (inst : Nat) (a b : Word) (s : State) : Result :=
  match lookupReg a with
  | none => raiseError .errReg s
  | some g =>
    if s.count g.block ≤ inst then raiseError .errInst s
    else if g.access = .rw then respond (s.writeReg g inst b) 0
    else raiseError .errRo s

end Sys2Proof.Machine
end

