-- ==== Sys2Proof/Machine/Zx.lean ====
section
/-! DEFINITION. The ZeroCrossingInterpolator commands (43_zero_crossing_interpolator.md). -/

namespace Sys2Proof.Machine

/-- `zx = floor_div(f1·t0 − f0·t1, f1 − f0)` in exact integers (R184). -/
def crossingTime (t0 t1 : Nat) (f0 f1 : Int) : Int := floorDiv (f1 * t0 - f0 * t1) (f1 - f0)

/-- The stored pair and the pair in the command are in different sign classes (R182, R183). -/
def ZxRegs.crossing (p : Params) (f : SampleReg) (r : ZxRegs) : Bool := crosses (sVal p.sw r.prevF) (sVal p.sw f)

/-- One sample: the pair is stored always, LASTX only on a crossing (R182, R186, R187). -/
def ZxRegs.feed (p : Params) (t : TimeReg) (f : SampleReg) (r : ZxRegs) : ZxRegs :=
  { prevT := t, prevF := f
    lastX :=
      if r.crossing p f then
        wrapTo p.tw (crossingTime (uVal p.tw r.prevT) (uVal p.tw t) (sVal p.sw r.prevF) (sVal p.sw f))
      else r.lastX }

/-- ZX_INIT (R180). -/
def execZxInit (inst : Nat) (a b : Word) (s : State) : Result :=
  onZx inst s fun r => ({ r with prevT := timeOperand s.params a, prevF := sampleOperand s.params b }, 0)

/-- ZX_FEED (R182). -/
def execZxFeed (inst : Nat) (a b : Word) (s : State) : Result :=
  onZx inst s fun r =>
    (r.feed s.params (timeOperand s.params a) (sampleOperand s.params b),
     boolWord (r.crossing s.params (sampleOperand s.params b)))

end Sys2Proof.Machine
end

