-- ==== Sys2Proof/Machine/Dispatch.lean ====
section
/-! DEFINITION. The meaning of every command: one arm per constructor of Instr. -/

namespace Sys2Proof.Machine

def exec (i : Instr) (s : State) : Host.Outcome State Fault Refusal :=
  match i with
  | .pwcSetwin inst a b => Sys2Proof.Machine.execPwcSetwin inst a b s
  | .pwcClassify inst a => Sys2Proof.Machine.execPwcClassify inst a s
  | .necInit inst => Sys2Proof.Machine.execNecInit inst s
  | .necEdge inst a => Sys2Proof.Machine.execNecEdge inst a s
  | .necCheck a => Sys2Proof.Machine.execNecCheck a s
  | .necCheckext a => Sys2Proof.Machine.execNecCheckext a s
  | .nvInit inst => Sys2Proof.Machine.execNvInit inst s
  | .nvEdge inst a level => Sys2Proof.Machine.execNvEdge inst a level s
  | .nvIdle inst a => Sys2Proof.Machine.execNvIdle inst a s
  | .zxInit inst a b => Sys2Proof.Machine.execZxInit inst a b s
  | .zxFeed inst a b => Sys2Proof.Machine.execZxFeed inst a b s
  | .ctInit inst => Sys2Proof.Machine.execCtInit inst s
  | .ctUpdate inst a => Sys2Proof.Machine.execCtUpdate inst a s
  | .ctIsvalid inst => Sys2Proof.Machine.execCtIsvalid inst s
  | .ctIsrotating inst a b => Sys2Proof.Machine.execCtIsrotating inst a b s
  | .ctCycleus inst => Sys2Proof.Machine.execCtCycleus inst s
  | .ctSmoothus inst => Sys2Proof.Machine.execCtSmoothus inst s
  | .ctSpeedclose inst instb a => Sys2Proof.Machine.execCtSpeedclose inst instb a s
  | .ctAvgclose inst instb a => Sys2Proof.Machine.execCtAvgclose inst instb a s
  | .regRd inst a => Sys2Proof.Machine.execRegRd inst a s
  | .regWr inst a b => Sys2Proof.Machine.execRegWr inst a b s

end Sys2Proof.Machine
end

