-- ==== Sys2Proof/Machine/Step.lean ====
section
/-! DEFINITION. One step is one command (00_scope.md R15). -/

namespace Sys2Proof.Machine

/-- A command is decoded and performed; a header the decoder rejects answers ERR_OPC (30_encoding.md R84 to R89). -/
def runCommand (c : Command) (s : State) : Host.Outcome State Fault Refusal :=
  match decode c with
  | .ok i => exec i s
  | .error e => rejectCommand e s

/-- The block performs the next command; while none is presented it waits and holds its state (R14, R15, 60_exceptions.md R255). -/
def step (s : State) : Host.Outcome State Fault Refusal :=
  match fetchCommand s with
  | none => .next s
  | some (c, s') => runCommand c s'

/-- The command of the table's bits, presented by the host as the next one (log 4). -/
def State.withFetchWord (s : State) (nbits w : Nat) : State := s.present (Command.ofTableBits nbits w)

end Sys2Proof.Machine
end

