-- ==== Sys2Proof/Machine/Assembler.lean ====
section
/-! DEFINITION. The textual form of a command stream (30_encoding.md R98) and the pseudo-commands (R99). No command's meaning depends on them. -/

namespace Sys2Proof.Machine

/-- A mnemonic: the table's name in lower case, its first underscore a dot (R98). -/
def asmMnemonic : Instr → String
  | .pwcSetwin _ _ _ => "pwc.setwin"
  | .pwcClassify _ _ => "pwc.classify"
  | .necInit _ => "nec.init"
  | .necEdge _ _ => "nec.edge"
  | .necCheck _ => "nec.check"
  | .necCheckext _ => "nec.checkext"
  | .nvInit _ => "nv.init"
  | .nvEdge _ _ _ => "nv.edge"
  | .nvIdle _ _ => "nv.idle"
  | .zxInit _ _ _ => "zx.init"
  | .zxFeed _ _ _ => "zx.feed"
  | .ctInit _ => "ct.init"
  | .ctUpdate _ _ => "ct.update"
  | .ctIsvalid _ => "ct.isvalid"
  | .ctIsrotating _ _ _ => "ct.isrotating"
  | .ctCycleus _ => "ct.cycleus"
  | .ctSmoothus _ => "ct.smoothus"
  | .ctSpeedclose _ _ _ => "ct.speedclose"
  | .ctAvgclose _ _ _ => "ct.avgclose"
  | .regRd _ _ => "reg.rd"
  | .regWr _ _ _ => "reg.wr"

/-- `blk.FIELD`, a field name of 20_memory.md R62 (R98). -/
def Reg.asmName : Reg → String
  | .pwcMin => "pwc.MIN"
  | .pwcMax => "pwc.MAX"
  | .pwcPrev => "pwc.PREV"
  | .necHdr => "nec.HDR"
  | .necOne => "nec.ONE"
  | .necZero => "nec.ZERO"
  | .necTol => "nec.TOL"
  | .necState => "nec.STATE"
  | .necBitIdx => "nec.BITIDX"
  | .necAcc => "nec.ACC"
  | .necPrev => "nec.PREV"
  | .nvAnchor => "nv.ANCHOR"
  | .nvAnchorTol => "nv.ANCHOR_TOL"
  | .nvIdle => "nv.IDLE"
  | .nvPhase => "nv.PHASE"
  | .nvSync => "nv.SYNC"
  | .nvPos => "nv.POS"
  | .nvPrevRise => "nv.PREVRISE"
  | .nvLastEdge => "nv.LASTEDGE"
  | .zxPrevT => "zx.PREVT"
  | .zxPrevF => "zx.PREVF"
  | .zxLastX => "zx.LASTX"
  | .ctE => "ct.E"
  | .ctCycle => "ct.CYCLE"
  | .ctLastMark => "ct.LASTMARK"
  | .ctSmoothLo => "ct.SMOOTH_LO"
  | .ctSmoothHi => "ct.SMOOTH_HI"

/-- The operands in R98's order: INST (and INSTB) first but for the validators, numbers decimal, a sample signed, the NV level `rise` or `fall`, a register by its name. None where a register address names no row: it has no assembler form. -/
def asmOperands (p : Params) : Instr → Option (List String)
  | .pwcSetwin inst a b => some [toString inst, toString a.toNat, toString b.toNat]
  | .pwcClassify inst a => some [toString inst, toString a.toNat]
  | .necInit inst => some [toString inst]
  | .necEdge inst a => some [toString inst, toString a.toNat]
  | .necCheck a => some [toString a.toNat]
  | .necCheckext a => some [toString a.toNat]
  | .nvInit inst => some [toString inst]
  | .nvEdge inst a level => some [toString inst, toString a.toNat, if level then "rise" else "fall"]
  | .nvIdle inst a => some [toString inst, toString a.toNat]
  | .zxInit inst a b => some [toString inst, toString a.toNat, toString (sVal p.sw (sampleOperand p b))]
  | .zxFeed inst a b => some [toString inst, toString a.toNat, toString (sVal p.sw (sampleOperand p b))]
  | .ctInit inst => some [toString inst]
  | .ctUpdate inst a => some [toString inst, toString a.toNat]
  | .ctIsvalid inst => some [toString inst]
  | .ctIsrotating inst a b => some [toString inst, toString a.toNat, toString b.toNat]
  | .ctCycleus inst => some [toString inst]
  | .ctSmoothus inst => some [toString inst]
  | .ctSpeedclose inst instb a => some [toString inst, toString instb, toString a.toNat]
  | .ctAvgclose inst instb a => some [toString inst, toString instb, toString a.toNat]
  | .regRd inst a => (lookupReg a).map fun g => [toString inst, g.asmName]
  | .regWr inst a b => (lookupReg a).map fun g => [toString inst, g.asmName, toString b.toNat]

/-- A command's text (R98). -/
def asmText (p : Params) (i : Instr) : Option String :=
  (asmOperands p i).map fun ops => asmMnemonic i ++ " " ++ String.intercalate ", " ops

/-- The pseudo-commands (R99). -/
inductive Pseudo where
  | necCfg (inst : Nat) (hdr one zero tol : Word)
  | pwcSetminmax (inst : Nat) (min max : Word)
  | nvSetidle (inst : Nat) (us : Word)
  | ctSete (inst : Nat) (e : Word)
  | zxLast (inst : Nat)
  | ctSmooth (inst : Nat)
  deriving DecidableEq, Repr

/-- A pseudo-command's expansion, in order; each command is its own step (R99, 70_reset_and_hazards.md R284). -/
def expandPseudo : Pseudo → List Instr
  | .necCfg inst hdr one zero tol =>
    [.regWr inst Reg.necHdr.address hdr, .regWr inst Reg.necOne.address one,
     .regWr inst Reg.necZero.address zero, .regWr inst Reg.necTol.address tol]
  | .pwcSetminmax inst min max => [.regWr inst Reg.pwcMin.address min, .regWr inst Reg.pwcMax.address max]
  | .nvSetidle inst us => [.regWr inst Reg.nvIdle.address us]
  | .ctSete inst e => [.regWr inst Reg.ctE.address e]
  | .zxLast inst => [.regRd inst Reg.zxLastX.address]
  | .ctSmooth inst => [.regRd inst Reg.ctSmoothLo.address, .regRd inst Reg.ctSmoothHi.address]

end Sys2Proof.Machine
end

