-- ==== Sys2Proof/Machine/Port.lean ====
section
/-! DEFINITION. The command port clock edge by clock edge: the handshake of 30_encoding.md R97, its latency LAT (70_reset_and_hazards.md R285), and the reset signal (R270). `step` is the same machine seen command by command. -/

namespace Sys2Proof.Machine

/-- What one rising edge of `clk` samples (R80), with what the spec leaves to the implementation: `extra` is LAT − 1 of a command accepted at this edge (R7, R285), and `draws` the unspecified values of a reset at this edge (R271). Both are inputs under no law (log 6). -/
structure Pins where
  rst      : Bool
  cmdValid : Bool
  cmd      : Command
  rspReady : Bool
  extra    : Nat
  draws    : Draws

/-- The outputs (R80). `rsp` is `rsp_status` and `rsp_data`; what they carry while `rsp_valid = 0` is not stated (log 10). -/
structure PortOut where
  cmdReady : Bool
  rspValid : Bool
  rsp      : Option Response
  deriving DecidableEq, Repr

/-- `cmd_ready = 1` exactly when `rst = 0` and no accepted command still waits for its response to be taken; while `rst = 1` no response is valid (R97, R270). -/
def State.outputs (rst : Bool) (s : State) : PortOut :=
  match s.port with
  | .idle => ⟨!rst, false, none⟩
  | .busy _ _ => ⟨false, false, none⟩
  | .answered r => ⟨false, !rst, if rst then none else some r⟩

/-- Reset: every field at its reset value or a draw, the handshake cleared, a command in flight abandoned (R270, R271). The instances stay, and so do the commands the host has yet to present. -/
def State.resetEdge (s : State) (d : Draws) : State :=
  { State.resetWith s.params s.counts d with pending := s.pending }

/-- One rising edge of `clk` (R97, R270): reset; acceptance; a cycle of latency; the command's effect and its response, LAT edges after acceptance; the response taken. -/
def clockEdge (x : Pins) (s : State) : Result :=
  if x.rst then .next (s.resetEdge x.draws)
  else
    match s.port with
    | .idle => .next (if x.cmdValid then { s with port := .busy x.cmd x.extra } else s)
    | .busy c 0 => runCommand c s
    | .busy c (n + 1) => .next { s with port := .busy c n }
    | .answered _ => .next (if x.rspReady then { s with port := .idle } else s)

/-- Successive rising edges, stopping where one answers no next state. -/
def clockEdges : List Pins → State → Result
  | [], s => .next s
  | x :: xs, s =>
    match clockEdge x s with
    | .next s' => clockEdges xs s'
    | .fault r => .fault r
    | .refused r => .refused r

end Sys2Proof.Machine
end

