-- ==== Sys2Proof/Safety.lean ====
section
/-! DEFINITION. What the statements speak of: the invariant of every state of the block, runs of commands, and the edge sequences the spec calls canonical. -/

namespace Sys2Proof.Machine

/-- A held pattern has no bit at or above the register's width. -/
def fits (n : Nat) {w : Nat} (v : BitVec w) : Bool := decide (v.toNat < 2 ^ n)

/-- The PWC registers keep their width (R25). -/
def PwcRegs.ok (p : Params) (r : PwcRegs) : Bool := fits p.tw r.min && fits p.tw r.max && fits p.tw r.prev

/-- The frame invariant (R28): while collecting, BITIDX is in 0..31 and no accumulator bit at or above it is set. -/
def NecRegs.frameOk (r : NecRegs) : Bool :=
  match r.state with
  | .await => true
  | .collect => decide (r.bitIdx.toNat ≤ 31) && decide (r.acc.toNat < 2 ^ r.bitIdx.toNat)

/-- The NEC registers keep their width, BITIDX is in 0..32 (R26), and the frame invariant holds (R28). -/
def NecRegs.ok (p : Params) (r : NecRegs) : Bool :=
  fits p.tw r.hdr && fits p.tw r.one && fits p.tw r.zero && fits p.tw r.tol && fits p.tw r.prev
    && decide (r.bitIdx.toNat ≤ 32) && r.frameOk

/-- SYNC = 0 implies PHASE = OFF and POS = 0 (R31); POS is in 0..6 (R29); PHASE is the phase of the position (R151). -/
def NvRegs.phaseOk (r : NvRegs) : Bool :=
  (r.sync || (r.phase == .off && r.pos == 0)) && decide (r.pos.toNat ≤ 6) && r.phase == phaseAt r.pos.toNat

/-- The NV registers keep their width and the phase invariant holds (R29, R31). -/
def NvRegs.ok (p : Params) (r : NvRegs) : Bool :=
  fits p.tw r.idle && fits p.tw r.prevRise && fits p.tw r.lastEdge && r.phaseOk

/-- The ZX registers keep their width (R32). -/
def ZxRegs.ok (p : Params) (r : ZxRegs) : Bool := fits p.tw r.prevT && fits p.sw r.prevF && fits p.tw r.lastX

/-- The CT registers keep their width (R33). -/
def CtRegs.ok (p : Params) (r : CtRegs) : Bool := fits p.tw r.cycle && fits p.tw r.lastMark && fits p.smw r.smooth

/-- A held response with an error status carries data 0 (R95, R241). -/
def Port.ok : Port → Bool
  | .answered r => r.status == .ok || r.data == 0
  | .idle => true
  | .busy _ _ => true

/-- The invariant: the parameters and counts are legal (R7), every register keeps its width, the invariants of R28 and R31 hold, and the port answers errors with data 0 (R241). -/
def State.inv (s : State) : Bool :=
  s.params.legal && s.counts.legal && s.pwc.all (PwcRegs.ok s.params) && s.nec.all (NecRegs.ok s.params)
    && s.nv.all (NvRegs.ok s.params) && s.zx.all (ZxRegs.ok s.params) && s.ct.all (CtRegs.ok s.params) && s.port.ok

/-- Commands performed one after another, stopping where one answers no next state; the responses in order (20_memory.md R71). -/
def execAll : List Instr → State → Option (State × List Response)
  | [], s => some (s, [])
  | i :: is, s =>
    match exec i s with
    | .next t =>
      match t.port with
      | .answered r => (execAll is t).map fun (u, rs) => (u, r :: rs)
      | _ => none
    | _ => none

/-- The timestamps of the bits of `code` from bit `k` on, each at the centre of its window after the edge at `t` (41_nec_decoder.md R132). -/
def canonicalBits (one zero : Word) (code : Word) (t : Word) : (k n : Nat) → List Word
  | _, 0 => []
  | k, n + 1 =>
    let t' := t + (if code.getLsbD k then one else zero)
    t' :: canonicalBits one zero code t' (k + 1) n

/-- The 33 timestamps of the canonical frame of `code` after the reference `t`: the header, then bits 0 to 31 (R132). -/
def canonicalFrame (hdr one zero : Word) (code t : Word) : List Word :=
  (t + hdr) :: canonicalBits one zero code (t + hdr) 0 32

/-- A shape's edges as commands, the shape's first edge at `start` (42_nvidia_shutter_decoder.md R159). -/
def Shape.commands (inst : Nat) (start : Word) (sh : Shape) : List Instr :=
  sh.edges.map fun e => .nvEdge inst (start + BitVec.ofNat 32 e.1) e.2

/-- A rising edge at `t` after one at `p` that is counted and is no anchor: the premise R160 leaves to the signal. -/
def plainGap (tw : Nat) (t p : TimeReg) : Prop :=
  interval tw t p ≠ 0 ∧ ¬ (97 ≤ interval tw t p ∧ interval tw t p ≤ 107)

/-- The instance a command may write: its own sub-block's instance INST (10_state.md R22), for REG_WR the instance of the block its address names (45_register_access.md R232); none for the commands that write no state (20_memory.md R68). -/
def writeTarget : Instr → Option (Block × Nat)
  | .pwcSetwin inst _ _ => some (.pwc, inst)
  | .pwcClassify inst _ => some (.pwc, inst)
  | .necInit inst => some (.nec, inst)
  | .necEdge inst _ => some (.nec, inst)
  | .necCheck _ => none
  | .necCheckext _ => none
  | .nvInit inst => some (.nv, inst)
  | .nvEdge inst _ _ => some (.nv, inst)
  | .nvIdle inst _ => some (.nv, inst)
  | .zxInit inst _ _ => some (.zx, inst)
  | .zxFeed inst _ _ => some (.zx, inst)
  | .ctInit inst => some (.ct, inst)
  | .ctUpdate inst _ => some (.ct, inst)
  | .ctIsvalid _ => none
  | .ctIsrotating _ _ _ => none
  | .ctCycleus _ => none
  | .ctSmoothus _ => none
  | .ctSpeedclose _ _ _ => none
  | .ctAvgclose _ _ _ => none
  | .regRd _ _ => none
  | .regWr inst a _ => (lookupReg a).map fun g => (g.block, inst)

/-- The commands that address instance `inst` of block `k` and read no other (30_encoding.md R83): the block's own, and REG_RD and REG_WR of the row `g`. -/
def instanceCommands (k : Block) (inst : Nat) (g : Reg) (a b : Word) (level : Bool) : List Instr :=
  (match k with
    | .pwc => [.pwcSetwin inst a b, .pwcClassify inst a]
    | .nec => [.necInit inst, .necEdge inst a]
    | .nv => [.nvInit inst, .nvEdge inst a level, .nvIdle inst a]
    | .zx => [.zxInit inst a b, .zxFeed inst a b]
    | .ct => [.ctInit inst, .ctUpdate inst a, .ctIsvalid inst, .ctIsrotating inst a b, .ctCycleus inst, .ctSmoothus inst])
    ++ [.regRd inst g.address, .regWr inst g.address b]

/-- Two states hold the same registers in instance `inst` of block `k`, or both have no such instance. -/
def sameInstance (k : Block) (inst : Nat) (s s' : State) : Prop :=
  match k with
  | .pwc => s'.pwc[inst]? = s.pwc[inst]?
  | .nec => s'.nec[inst]? = s.nec[inst]?
  | .nv => s'.nv[inst]? = s.nv[inst]?
  | .zx => s'.zx[inst]? = s.zx[inst]?
  | .ct => s'.ct[inst]? = s.ct[inst]?

/-- `k` marks on tracker `inst`, n apart, the first n after `t` (44_cycle_tracker.md R207). -/
def evenMarks (inst : Nat) (t : Word) (n k : Nat) : List Instr :=
  (List.range k).map fun j => .ctUpdate inst (t + BitVec.ofNat 32 ((j + 1) * n))

/-- The window test of the NEC decoder in exact integers (41_nec_decoder.md R121). -/
def NecRegs.within (p : Params) (r : NecRegs) (c : TimeReg) (dt : Int) : Prop :=
  (uVal p.tw c : Int) - (uVal p.tw r.tol : Int) ≤ dt ∧ dt ≤ (uVal p.tw c : Int) + (uVal p.tw r.tol : Int)

/-- REG_RD of the address `a` answers OK with `v`, and nothing else changes (45_register_access.md R230). -/
def readsAs (s : State) (inst : Nat) (a v : Word) : Prop :=
  exec (.regRd inst a) s = .next { s with port := .answered ⟨.ok, v⟩ }

/-- A header is illegal (30_encoding.md R85 to R88), over its bits alone. -/
def illegalHeader (h : Header) : Prop :=
  h.extractLsb' 8 3 ≠ 0 ∨
  h.extractLsb' 11 5 ∈ [0x00#5, 0x03#5, 0x0B#5, 0x0E#5, 0x0F#5, 0x18#5, 0x19#5, 0x1A#5, 0x1B#5, 0x1C#5, 0x1D#5] ∨
  (h.extractLsb' 4 4 ≠ 0 ∧ h.extractLsb' 11 5 ≠ 0x16 ∧ h.extractLsb' 11 5 ≠ 0x17) ∨
  (h.extractLsb' 0 4 ≠ 0 ∧ (h.extractLsb' 11 5 = 0x06 ∨ h.extractLsb' 11 5 = 0x07))

/-- Every header of the opcode whose pattern is `k` with fields that are `bad` (RSV, INSTB and INST in this order) answers ERR_OPC and changes no state (30_encoding.md R86, R87, R88; 60_exceptions.md R241). -/
def rejectsFields (k : Nat) (bad : Nat → Nat → Nat → Prop) (s : State) (a b : Word) : Prop :=
  ∀ rsv instb inst, rsv < 8 → instb < 16 → inst < 16 → bad rsv instb inst →
    runCommand ⟨BitVec.ofNat 16 (k + rsv * 256 + instb * 16 + inst), a, b⟩ s =
      .next { s with port := .answered ⟨.errOpc, 0⟩ }

/-- The fields R86 and R87 refuse: RSV or INSTB nonzero. -/
def badOneInst (rsv instb _inst : Nat) : Prop := rsv ≠ 0 ∨ instb ≠ 0

/-- The fields R86, R87 and R88 refuse on the validators: RSV, INSTB or INST nonzero. -/
def badNoInst (rsv instb inst : Nat) : Prop := rsv ≠ 0 ∨ instb ≠ 0 ∨ inst ≠ 0

/-- The fields R86 refuses on CT_SPEEDCLOSE and CT_AVGCLOSE: RSV nonzero. -/
def badTwoInst (rsv _instb _inst : Nat) : Prop := rsv ≠ 0

/-- The addresses of R62's rows, block by block. -/
def pwcAddresses : List Word := [0x000, 0x001, 0x010]

/-- The NEC rows of R62. -/
def necAddresses : List Word := [0x100, 0x101, 0x102, 0x103, 0x110, 0x111, 0x112, 0x113]

/-- The NV rows of R62. -/
def nvAddresses : List Word := [0x200, 0x201, 0x202, 0x210, 0x211, 0x212, 0x213, 0x214]

/-- The ZX rows of R62. -/
def zxAddresses : List Word := [0x310, 0x311, 0x312]

/-- The CT rows of R62. -/
def ctAddresses : List Word := [0x400, 0x410, 0x411, 0x412, 0x413]

/-- The rows of R62 whose access is RW. -/
def rwAddresses : List Word := [0x000, 0x001, 0x100, 0x101, 0x102, 0x103, 0x202, 0x400]

/-- The block of an address has no instance `inst` (45_register_access.md R230). -/
def noSuchInstance (s : State) (a : Word) (inst : Nat) : Prop :=
  (a ∈ pwcAddresses ∧ s.pwc.length ≤ inst) ∨ (a ∈ necAddresses ∧ s.nec.length ≤ inst) ∨
  (a ∈ nvAddresses ∧ s.nv.length ≤ inst) ∨ (a ∈ zxAddresses ∧ s.zx.length ≤ inst) ∨
  (a ∈ ctAddresses ∧ s.ct.length ≤ inst)

/-- An address is a row of R62. -/
def isRegister (a : Word) : Prop :=
  a ∈ pwcAddresses ∨ a ∈ necAddresses ∨ a ∈ nvAddresses ∨ a ∈ zxAddresses ∨ a ∈ ctAddresses

end Sys2Proof.Machine
end

