-- ==== Sys2Proof/Certificates/Slice0/Obligations.lean ====
section
/-! DEFINITION. The statements for the provers: what the rules of spec/ say the block does. A statement about a command gives, of its rule, the encoding, the headers of its opcode that answer ERR_OPC (R86, R87, R88), the effect with everything it leaves unchanged (the right side names every field written), and the error where the instance does not exist. -/

open Sys2Proof Sys2Proof.Machine

/-! ### Encoding and decoding (30_encoding.md) -/

/-- No operand and no header bit of a well-formed command is lost between encoding and decoding (R81, R82, R84). -/
def Obligations.DecodeEncodeRoundTrip : Prop :=
  ∀ i : Instr, i.wf = true → decode (encode i) = .ok i

/-- An accepted header is the encoding of what it decodes to, so no two headers mean one command on the same operands, and the decoded term is well formed (R84, R89). -/
def Obligations.DecodedHeaderReencodes : Prop :=
  ∀ (c : Command) (i : Instr), decode c = .ok i → i.wf = true ∧ (encode i).hdr = c.hdr

/-- The headers R85, R86, R87 and R88 call illegal are exactly those the decoder rejects, and each answers ERR_OPC with no state changed. -/
def Obligations.IllegalHeadersRaiseErrOpc : Prop :=
  ∀ (s : State) (c : Command),
    ((∃ e, decode c = .error e) ↔ illegalHeader c.hdr) ∧
    (illegalHeader c.hdr → runCommand c s = .next { s with port := .answered ⟨.errOpc, 0⟩ })

/-- Words written out from the header patterns of R84, one of each family, decode to the commands they stand for. The last two are words of opcode_table.json: that such a word's bits are the header's, and that its operand words are zeros, is the model's reading of the table (log 5); of these, 0x0000 decodes to none (R85). -/
def Obligations.HeaderPatternsDecode : Prop :=
  decode ⟨0b0000100000000000, 1000, 100⟩ = .ok (.pwcSetwin 0 1000 100) ∧
  decode ⟨0b0010100000000011, 14500, 7⟩ = .ok (.necEdge 3 14500) ∧
  decode ⟨0b0011000000000000, 0xEF10FB04, 0⟩ = .ok (.necCheck 0xEF10FB04) ∧
  decode ⟨0b0100100000001111, 16102, 0xFFFFFFFE⟩ = .ok (.nvEdge 15 16102 false) ∧
  decode ⟨0b0110100000000000, 10, 0xFFF6⟩ = .ok (.zxFeed 0 10 0xFFF6) ∧
  decode ⟨0b1011000000010000, 10, 0⟩ = .ok (.ctSpeedclose 0 1 10) ∧
  decode ⟨0b1111100000000000, 0x202, 3000⟩ = .ok (.regWr 0 0x202 3000) ∧
  decodeTableWord 16 0b1001100000000001 = some (.ctIsrotating 1 0 0) ∧
  decodeTableWord 16 0 = none

/-! ### Steps, errors and the port (00_scope.md, 60_exceptions.md, 30_encoding.md) -/

/-- One step performs one command: the one in flight, else the host's next one, taken from `pending` with the held response cleared from the port. Where its header decodes the step is exec of the instruction; where the header is illegal it answers ERR_OPC and changes nothing else. While there is no command the block waits (R14, R15, R240, R272). That the commands yet to come stand in `pending`, and the waiting step, are the model's choice (log 4). -/
def Obligations.StepRunsTheNextCommand : Prop :=
  ∀ (s u : State) (c : Command),
    ((∃ n, s.port = .busy c n ∧ u = { s with port := .idle }) ∨
      ((∀ d n, s.port ≠ .busy d n) ∧ ∃ rest, s.pending = c :: rest ∧ u = { s with port := .idle, pending := rest }) →
      (∀ i, decode c = .ok i → step s = exec i u) ∧
      (∀ e, decode c = .error e → step s = runCommand c u ∧ step s = .next { u with port := .answered ⟨.errOpc, 0⟩ })) ∧
    ((∀ d n, s.port ≠ .busy d n) → s.pending = [] → step s = .next s)

/-- A step always answers a next state: the block has no fault state and never hangs (R241 to R244, 93_implementation_defined.md). -/
def Obligations.StepNeverStops : Prop :=
  ∀ s : State, ∃ t, step s = .next t

/-- Every command takes exactly one response, and changes neither the parameters nor the number of instances nor what the host has yet to present (R15, R97). -/
def Obligations.EveryCommandAnswersOnce : Prop :=
  ∀ (i : Instr) (s : State), ∃ t r,
    exec i s = .next t ∧ t.port = .answered r ∧ t.params = s.params ∧ t.counts = s.counts ∧ t.pending = s.pending

/-- A command that raises an error, an illegal header among them, returns data 0 and changes no state, takes one response, and the port accepts the next command once that response is taken (R241). -/
def Obligations.ErrorsChangeNoState : Prop :=
  ∀ (c : Command) (s t : State) (r : Response),
    runCommand c s = .next t → t.port = .answered r → r.status ≠ .ok →
      t = { s with port := .answered ⟨r.status, 0⟩ } ∧
      ∀ x : Pins, x.rst = false → x.rspReady = true →
        clockEdge x t = .next { s with port := .idle } ∧
        (State.outputs false { s with port := .idle }).cmdReady = true

/-- A reset edge: every register takes its reset value or its draw whatever it held, the handshake is cleared with any command in flight, and nothing is ready or valid while `rst = 1` (R270). The instances stay; that `pending`, the model's own field (log 4), stays is the model's choice. -/
def Obligations.ResetEdgeClearsEverything : Prop :=
  ∀ (x : Pins) (s : State), x.rst = true →
    clockEdge x s = .next { State.resetWith s.params s.counts x.draws with pending := s.pending } ∧
    (State.resetWith s.params s.counts x.draws).port = .idle ∧
    (State.resetWith s.params s.counts x.draws).params = s.params ∧
    (State.resetWith s.params s.counts x.draws).counts = s.counts ∧
    State.outputs true s = ⟨false, false, none⟩ ∧
    ∀ s' : State, s'.params = s.params → s'.counts = s.counts → s'.pending = s.pending →
      clockEdge x s' = clockEdge x s

/-- A response stays presented, and no command is accepted, until an edge with `rsp_ready = 1` takes it (R97). -/
def Obligations.ResponseHeldUntilTaken : Prop :=
  ∀ (x : Pins) (s : State) (r : Response), x.rst = false → s.port = .answered r →
    State.outputs false s = ⟨false, true, some r⟩ ∧
    clockEdge x s = .next { s with port := if x.rspReady then .idle else .answered r }

/-- A command accepted at an edge is in flight, nothing ready and nothing valid, for LAT − 1 further edges; at the LAT-th edge its effect is complete and its response presented, with exactly what `step` gives that command were it the host's next one (R97, R285). The model's choices: LAT − 1 is an input of the accepting edge, and the registers keep their values until the LAT-th (log 6); `pending` is how `step` is given the command, and the edges leave it as it is (log 4). -/
def Obligations.LatencyThenStepEffect : Prop :=
  ∀ (s t : State) (x : Pins) (ys : List Pins) (rest : List Command),
    s.port = .idle → x.rst = false → x.cmdValid = true →
    (∀ y ∈ ys, y.rst = false) → ys.length = x.extra + 1 → step { s with pending := x.cmd :: rest } = .next t →
      State.outputs false s = ⟨true, false, none⟩ ∧
      (∀ k, k ≤ x.extra →
        clockEdges (x :: ys.take k) s = .next { s with port := .busy x.cmd (x.extra - k) } ∧
        State.outputs false { s with port := .busy x.cmd (x.extra - k) } = ⟨false, false, none⟩) ∧
      clockEdges (x :: ys) s = .next { t with pending := s.pending } ∧
      ∃ r, t.port = .answered r

/-! ### Reset and the invariant (70_reset_and_hazards.md, 10_state.md) -/

/-- R271's table, for every parameter, count and draw: the fields with a reset value have it, the hardwired anchor registers read 102 and 5, every other field of every instance takes its draw, and every pattern of a field's width can be drawn. The port is idle, and the parameters and the counts are the given ones. -/
def Obligations.ResetValues : Prop :=
  ∀ (p : Params) (n : Counts) (d : Draws),
    (State.resetWith p n d).counts = n ∧ (State.resetWith p n d).params = p ∧ (State.resetWith p n d).port = .idle ∧
    (∀ k, k < n.pwc → (State.resetWith p n d).pwc[k]? =
      some ⟨lowBits p.tw (d.pwcMin k), lowBits p.tw (d.pwcMax k), lowBits p.tw (d.pwcPrev k)⟩) ∧
    (∀ k, k < n.nec → (State.resetWith p n d).nec[k]? =
      some ⟨13500, 2250, 1120, 300, .await, 0, 0, lowBits p.tw (d.necPrev k)⟩) ∧
    (∀ k, k < n.nv → (State.resetWith p n d).nv[k]? =
      some ⟨lowBits p.tw (d.nvIdle k), .off, false, 0, lowBits p.tw (d.nvPrevRise k), lowBits p.tw (d.nvLastEdge k)⟩) ∧
    (∀ k, k < n.zx → (State.resetWith p n d).zx[k]? =
      some ⟨lowBits p.tw (d.zxPrevT k), lowBits p.sw (d.zxPrevF k), lowBits p.tw (d.zxLastX k)⟩) ∧
    (∀ k, k < n.ct → (State.resetWith p n d).ct[k]? =
      some ⟨d.ctE k, 0, lowBits p.tw (d.ctLastMark k), lowBits (p.tw + 15) (d.ctSmooth k)⟩) ∧
    (∀ k, k < n.nv → readsAs (State.resetWith p n d) k 0x200 102 ∧ readsAs (State.resetWith p n d) k 0x201 5) ∧
    (∀ (w m : Nat) (v : BitVec m), v.toNat < 2 ^ w → (lowBits w v : BitVec m) = v)

/-- The model's choice (log 1, log 3), not the spec's: `State.reset` has R7's defaults and 0 in every field R271 leaves unspecified, no command in flight and none presented. -/
def Obligations.ResetStateOfTheModel : Prop :=
  State.reset.params.tw = 32 ∧ State.reset.params.sw = 16 ∧
  State.reset.pwc = [⟨0, 0, 0⟩] ∧
  State.reset.nec = [⟨13500, 2250, 1120, 300, .await, 0, 0, 0⟩] ∧
  State.reset.nv = [⟨0, .off, false, 0, 0, 0⟩] ∧
  State.reset.zx = [⟨0, 0, 0⟩] ∧
  State.reset.ct = [⟨0, 0, 0, 0⟩, ⟨0, 0, 0, 0⟩] ∧
  State.reset.port = .idle ∧ State.reset.pending = []

/-- The invariant holds at `State.reset`. -/
def Obligations.ResetSatisfiesInv : Prop :=
  State.reset.inv = true

/-- The invariant holds after every reset, whatever the draws (R271: "The defined values satisfy the invariants of 10_state.md rules R28 and R31"). -/
def Obligations.EveryResetSatisfiesInv : Prop :=
  ∀ (p : Params) (n : Counts) (d : Draws), p.legal = true → n.legal = true → (State.resetWith p n d).inv = true

/-- Every step keeps the invariant: registers in their width, BITIDX ≤ 32, the frame invariant of R28, the phase invariant of R31, errors with data 0. -/
def Obligations.StepKeepsInv : Prop :=
  ∀ s t : State, s.inv = true → step s = .next t → t.inv = true

/-- Every clock edge keeps the invariant, a reset edge for every draw among them. -/
def Obligations.ClockEdgeKeepsInv : Prop :=
  ∀ (x : Pins) (s t : State), s.inv = true → clockEdge x s = .next t → t.inv = true

/-- R21: every interval lies in the signed TW-bit range and is congruent to the difference of the timestamps modulo 2^TW; a true distance below 2^(TW−1) is measured exactly, also across a wrap of the counter. -/
def Obligations.IntervalIsModularDistance : Prop :=
  ∀ (tw : Nat) (t p : TimeReg), 16 ≤ tw → tw ≤ 32 →
    -(2 : Int) ^ (tw - 1) ≤ interval tw t p ∧ interval tw t p < (2 : Int) ^ (tw - 1) ∧
    (2 : Int) ^ tw ∣ interval tw t p - ((uVal tw t : Int) - (uVal tw p : Int)) ∧
    ∀ d : Nat, d < 2 ^ (tw - 1) → interval tw (lowBits tw (p + BitVec.ofNat 32 d)) p = d

/-! ### Isolation of the instances -/

/-- A command changes no register of any instance but the one it addresses (R20, R22, R67). -/
def Obligations.OnlyTheAddressedInstanceChanges : Prop :=
  ∀ (i : Instr) (s t : State), exec i s = .next t →
    (∀ k, writeTarget i ≠ some (.pwc, k) → t.pwc[k]? = s.pwc[k]?) ∧
    (∀ k, writeTarget i ≠ some (.nec, k) → t.nec[k]? = s.nec[k]?) ∧
    (∀ k, writeTarget i ≠ some (.nv, k) → t.nv[k]? = s.nv[k]?) ∧
    (∀ k, writeTarget i ≠ some (.zx, k) → t.zx[k]? = s.zx[k]?) ∧
    (∀ k, writeTarget i ≠ some (.ct, k) → t.ct[k]? = s.ct[k]?)

/-- What a command answers and does depends, beyond its operands and the parameters, on the registers it addresses alone: for a command on one instance, REG_RD and REG_WR of any row among them, on that instance, which it leaves the same in both states; for CT_SPEEDCLOSE and CT_AVGCLOSE on the two trackers (R216); for the validators on no register (R20, R253). -/
def Obligations.ResultDependsOnTheInstanceAlone : Prop :=
  ∀ (s s' t t' : State) (inst instb : Nat) (a b : Word) (level : Bool), s'.params = s.params →
    (∀ (k : Block) (g : Reg) (i : Instr), g.block = k → i ∈ instanceCommands k inst g a b level →
      sameInstance k inst s s' → exec i s = .next t → exec i s' = .next t' →
        t'.port = t.port ∧ sameInstance k inst t t') ∧
    (∀ i ∈ [Instr.ctSpeedclose inst instb a, .ctAvgclose inst instb a],
      sameInstance .ct inst s s' → sameInstance .ct instb s s' → exec i s = .next t → exec i s' = .next t' →
        t'.port = t.port) ∧
    (∀ i ∈ [Instr.necCheck a, .necCheckext a], exec i s = .next t → exec i s' = .next t' → t'.port = t.port)

/-- REG_RD, the CT accessors and comparisons and the NEC validators leave the block as it is (R68). -/
def Obligations.ReadersHaveNoSideEffect : Prop :=
  ∀ (s t : State) (inst instb : Nat) (a b : Word) (i : Instr),
    i ∈ [Instr.regRd inst a, .ctIsvalid inst, .ctIsrotating inst a b, .ctCycleus inst, .ctSmoothus inst,
         .ctSpeedclose inst instb a, .ctAvgclose inst instb a, .necCheck a, .necCheckext a] →
    exec i s = .next t → t = { s with port := t.port }

/-! ### PulseWidthClassifier (40_pulse_width_classifier.md) -/

/-- PWC_SETWIN (R100). -/
def Obligations.PwcSetwinSetsTheWindow : Prop :=
  ∀ (s : State) (inst : Nat) (a b : Word),
    (inst < 16 → decode ⟨BitVec.ofNat 16 (0x0800 + inst), a, b⟩ = .ok (.pwcSetwin inst a b)) ∧
    rejectsFields 0x0800 badOneInst s a b ∧
    (∀ r, s.pwc[inst]? = some r →
      exec (.pwcSetwin inst a b) s = .next
        { s with
          pwc := s.pwc.set inst
            { min := wrapTo s.params.tw ((uVal s.params.tw a : Int) - (uVal s.params.tw b : Int))
              max := wrapTo s.params.tw ((uVal s.params.tw a : Int) + (uVal s.params.tw b : Int))
              prev := r.prev }
          port := .answered ⟨.ok, 0⟩ }) ∧
    (s.pwc.length ≤ inst →
      exec (.pwcSetwin inst a b) s = .next { s with port := .answered ⟨.errInst, 0⟩ })

/-- PWC_CLASSIFY (R102): both ends inclusive, PREV written whatever the result. -/
def Obligations.PwcClassifyTestsTheWindow : Prop :=
  ∀ (s : State) (inst : Nat) (a b : Word),
    (inst < 16 → decode ⟨BitVec.ofNat 16 (0x1000 + inst), a, b⟩ = .ok (.pwcClassify inst a)) ∧
    rejectsFields 0x1000 badOneInst s a b ∧
    (∀ r, s.pwc[inst]? = some r →
      exec (.pwcClassify inst a) s = .next
        { s with
          pwc := s.pwc.set inst { min := r.min, max := r.max, prev := lowBits s.params.tw a }
          port := .answered ⟨.ok,
            if sVal s.params.tw r.min ≤ interval s.params.tw (lowBits s.params.tw a) r.prev ∧
               interval s.params.tw (lowBits s.params.tw a) r.prev ≤ sVal s.params.tw r.max then 1 else 0⟩ }) ∧
    (s.pwc.length ≤ inst →
      exec (.pwcClassify inst a) s = .next { s with port := .answered ⟨.errInst, 0⟩ })

/-- PWC_SETWIN leaves the wrapped patterns of w − tol and w + tol; for a valid pair, tol ≤ w and w + tol ≤ 2^(TW−1) − 1, they read w − tol and w + tol exactly (R101). -/
def Obligations.PwcValidPairIsExact : Prop :=
  ∀ (s t : State) (inst : Nat) (a b : Word) (w tol : Int), s.params.legal = true → inst < s.pwc.length →
    w = uVal s.params.tw a → tol = uVal s.params.tw b → exec (.pwcSetwin inst a b) s = .next t →
    ∃ r, t.pwc[inst]? = some r ∧ r.min = wrapTo s.params.tw (w - tol) ∧ r.max = wrapTo s.params.tw (w + tol) ∧
      (tol ≤ w → w + tol ≤ 2 ^ (s.params.tw - 1) - 1 →
        sVal s.params.tw r.min = w - tol ∧ sVal s.params.tw r.max = w + tol)

/-- The boundary property (R106): after PWC_SETWIN of a valid pair, PWC_CLASSIFY answers 1 iff w − tol ≤ Δt ≤ w + tol, for every previous timestamp. -/
def Obligations.PwcBoundaryProperty : Prop :=
  ∀ (s : State) (inst : Nat) (a b t : Word) (r : PwcRegs), s.params.legal = true → s.pwc[inst]? = some r →
    uVal s.params.tw b ≤ uVal s.params.tw a → uVal s.params.tw a + uVal s.params.tw b ≤ 2 ^ (s.params.tw - 1) - 1 →
    ∃ u, execAll [.pwcSetwin inst a b, .pwcClassify inst t] s = some (u, [⟨.ok, 0⟩, ⟨.ok,
      if (uVal s.params.tw a : Int) - (uVal s.params.tw b : Int) ≤ interval s.params.tw t r.prev ∧
         interval s.params.tw t r.prev ≤ (uVal s.params.tw a : Int) + (uVal s.params.tw b : Int) then 1 else 0⟩])

/-- A miss advances the reference (R104): after any edge at `t1`, the result of the edge at `t2` depends on the window and the two timestamps alone, whatever PREV was. -/
def Obligations.PwcResultNeedsOnlyTheLastEdge : Prop :=
  ∀ (s s' : State) (inst : Nat) (t1 t2 : Word) (r r' : PwcRegs), s'.params = s.params →
    s.pwc[inst]? = some r → s'.pwc[inst]? = some r' → r'.min = r.min → r'.max = r.max →
    ∃ u u' x x' y, execAll [.pwcClassify inst t1, .pwcClassify inst t2] s = some (u, [x, y]) ∧
      execAll [.pwcClassify inst t1, .pwcClassify inst t2] s' = some (u', [x', y])

/-- A repeated timestamp (R105): the second PWC_CLASSIFY answers MIN ≤ 0 ≤ MAX and leaves the instance as it is; after PWC_SETWIN of a valid pair with tol < w it answers 0. -/
def Obligations.PwcZeroIntervalIsNoPulse : Prop :=
  ∀ (s : State) (inst : Nat) (t : Word) (r : PwcRegs), s.pwc[inst]? = some r →
    ∃ u x, execAll [.pwcClassify inst t] s = some (u, [x]) ∧
      exec (.pwcClassify inst t) u = .next { u with port := .answered ⟨.ok,
        if sVal s.params.tw r.min ≤ 0 ∧ 0 ≤ sVal s.params.tw r.max then 1 else 0⟩ } ∧
      ∀ a b : Word, s.params.legal = true → uVal s.params.tw b < uVal s.params.tw a →
        uVal s.params.tw a + uVal s.params.tw b ≤ 2 ^ (s.params.tw - 1) - 1 →
        ∃ v y, execAll [.pwcSetwin inst a b, .pwcClassify inst t, .pwcClassify inst t] s =
          some (v, [⟨.ok, 0⟩, y, ⟨.ok, 0⟩])

/-! ### NecDecoder (41_nec_decoder.md) -/

/-- NEC_INIT (R120). -/
def Obligations.NecInitRestartsTheSearch : Prop :=
  ∀ (s : State) (inst : Nat) (a b : Word),
    (inst < 16 → decode ⟨BitVec.ofNat 16 (0x2000 + inst), a, b⟩ = .ok (.necInit inst)) ∧
    rejectsFields 0x2000 badOneInst s a b ∧
    (∀ r, s.nec[inst]? = some r →
      exec (.necInit inst) s = .next
        { s with
          nec := s.nec.set inst { r with state := .await, bitIdx := 0, acc := 0 }
          port := .answered ⟨.ok, 0⟩ }) ∧
    (s.nec.length ≤ inst → exec (.necInit inst) s = .next { s with port := .answered ⟨.errInst, 0⟩ })

/-- NEC_EDGE (R122): a header (R124), no header (R124), a bit with the one window tested first (R125), the frame's completion (R126), the abort (R127); PREV is written in every case (R123). The window test is R121's. -/
def Obligations.NecEdgeTransitions : Prop :=
  ∀ (s : State) (inst : Nat) (a b : Word),
    (inst < 16 → decode ⟨BitVec.ofNat 16 (0x2800 + inst), a, b⟩ = .ok (.necEdge inst a)) ∧
    rejectsFields 0x2800 badOneInst s a b ∧
    (∀ (r : NecRegs) (dt : Int), s.nec[inst]? = some r →
      dt = interval s.params.tw (lowBits s.params.tw a) r.prev →
      (r.state = .await → r.within s.params r.hdr dt → exec (.necEdge inst a) s = .next
        { s with
          nec := s.nec.set inst { r with state := .collect, bitIdx := 0, acc := 0, prev := lowBits s.params.tw a }
          port := .answered ⟨.ok, 0⟩ }) ∧
      (r.state = .await → ¬ r.within s.params r.hdr dt → exec (.necEdge inst a) s = .next
        { s with nec := s.nec.set inst { r with prev := lowBits s.params.tw a }, port := .answered ⟨.ok, 0⟩ }) ∧
      (r.state = .collect → ¬ r.within s.params r.one dt → ¬ r.within s.params r.zero dt → exec (.necEdge inst a) s = .next
        { s with
          nec := s.nec.set inst { r with state := .await, prev := lowBits s.params.tw a }
          port := .answered ⟨.ok, 0⟩ }) ∧
      (∀ (bit acc : Word), r.state = .collect →
        ((r.within s.params r.one dt ∧ bit = 1) ∨ (¬ r.within s.params r.one dt ∧ r.within s.params r.zero dt ∧ bit = 0)) →
        acc = r.acc ||| (bit <<< r.bitIdx.toNat) →
        (r.bitIdx ≠ 31 → exec (.necEdge inst a) s = .next
          { s with
            nec := s.nec.set inst { r with bitIdx := r.bitIdx + 1, acc := acc, prev := lowBits s.params.tw a }
            port := .answered ⟨.ok, 0⟩ }) ∧
        (r.bitIdx = 31 → exec (.necEdge inst a) s = .next
          { s with
            nec := s.nec.set inst
              { r with state := .await, bitIdx := 32, acc := acc, prev := lowBits s.params.tw a }
            port := .answered ⟨.ok, acc⟩ }))) ∧
    (s.nec.length ≤ inst → exec (.necEdge inst a) s = .next { s with port := .answered ⟨.errInst, 0⟩ })

/-- Two NEC_EDGE commands with one timestamp leave AWAIT with PREV at it, from any state, provided 0 lies in no window; the second answers 0 (R129). -/
def Obligations.NecTwoEqualEdgesResynchronise : Prop :=
  ∀ (s : State) (inst : Nat) (t : Word) (r : NecRegs), s.nec[inst]? = some r →
    uVal s.params.tw r.tol < uVal s.params.tw r.hdr → uVal s.params.tw r.tol < uVal s.params.tw r.one →
    uVal s.params.tw r.tol < uVal s.params.tw r.zero →
    ∃ u x r', execAll [.necEdge inst t, .necEdge inst t] s = some (u, [x, ⟨.ok, 0⟩]) ∧
      u.nec[inst]? = some r' ∧ r'.state = .await ∧ r'.prev = lowBits s.params.tw t

/-- The canonical frame of any code decodes to it: 32 answers of 0, then the code; AWAIT, BITIDX = 32, ACC = code, PREV the last edge (R132). Beyond R132's premise on ONE, ZERO and TOL, each centre must be below 2^(TW−1): R279's "keep every true interval an instance measures below 2^(TW−1)". -/
def Obligations.NecCanonicalFrameDecodes : Prop :=
  ∀ (s : State) (inst : Nat) (code t : Word) (r : NecRegs), s.params.legal = true → s.nec[inst]? = some r →
    r.state = .await → r.prev = lowBits s.params.tw t →
    uVal s.params.tw r.hdr < 2 ^ (s.params.tw - 1) → uVal s.params.tw r.one < 2 ^ (s.params.tw - 1) →
    uVal s.params.tw r.zero < 2 ^ (s.params.tw - 1) →
    (uVal s.params.tw r.tol : Int) < |(uVal s.params.tw r.zero : Int) - (uVal s.params.tw r.one : Int)| →
    ∃ u last, execAll ((canonicalFrame r.hdr r.one r.zero code t).map (.necEdge inst)) s =
        some (u, List.replicate 32 ⟨.ok, 0⟩ ++ [⟨.ok, code⟩]) ∧
      (canonicalFrame r.hdr r.one r.zero code t).getLast? = some last ∧
      u.nec[inst]? = some { r with state := .await, bitIdx := 32, acc := code, prev := lowBits s.params.tw last }

/-- Resynchronisation: an aborting edge at `t`, then a canonical frame from it, decodes exactly, with nothing left of the aborted frame (R133, with the premises of R132 and R279). -/
def Obligations.NecAbortThenFrameDecodes : Prop :=
  ∀ (s : State) (inst : Nat) (code t : Word) (r : NecRegs) (dt : Int), s.params.legal = true → s.nec[inst]? = some r →
    r.state = .collect → dt = interval s.params.tw (lowBits s.params.tw t) r.prev →
    ¬ r.within s.params r.one dt → ¬ r.within s.params r.zero dt →
    uVal s.params.tw r.hdr < 2 ^ (s.params.tw - 1) → uVal s.params.tw r.one < 2 ^ (s.params.tw - 1) →
    uVal s.params.tw r.zero < 2 ^ (s.params.tw - 1) →
    (uVal s.params.tw r.tol : Int) < |(uVal s.params.tw r.zero : Int) - (uVal s.params.tw r.one : Int)| →
    ∃ u, execAll ((t :: canonicalFrame r.hdr r.one r.zero code t).map (.necEdge inst)) s =
      some (u, List.replicate 33 ⟨.ok, 0⟩ ++ [⟨.ok, code⟩])

/-- NEC_CHECK (R130): the command bytes, and the address bytes too under NEC_PLAIN_ADDR_CHECK, whatever its value; without it the answer is NEC_CHECKEXT's. -/
def Obligations.NecCheckTestsThePlainConvention : Prop :=
  ∀ (s : State) (a b : Word),
    decode ⟨0x3000, a, b⟩ = .ok (.necCheck a) ∧ rejectsFields 0x3000 badNoInst s a b ∧
    exec (.necCheck a) s = .next { s with port := .answered ⟨.ok,
      if a.extractLsb' 16 8 = ~~~ a.extractLsb' 24 8 ∧
         (s.params.necPlainAddrCheck = true → a.extractLsb' 0 8 = ~~~ a.extractLsb' 8 8) then 1 else 0⟩ } ∧
    (s.params.necPlainAddrCheck = false → exec (.necCheck a) s = exec (.necCheckext a) s)

/-- NEC_CHECKEXT (R131): the command byte must be the complement of the byte above it; the address bits are not examined, and code 0 fails (R128). -/
def Obligations.NecCheckextTestsTheCommandByte : Prop :=
  ∀ (s : State) (a b : Word),
    decode ⟨0x3800, a, b⟩ = .ok (.necCheckext a) ∧ rejectsFields 0x3800 badNoInst s a b ∧
    exec (.necCheckext a) s = .next { s with port := .answered ⟨.ok,
      if a.extractLsb' 16 8 = ~~~ a.extractLsb' 24 8 then 1 else 0⟩ } ∧
    (∀ c : Word, c.extractLsb' 16 16 = a.extractLsb' 16 16 → exec (.necCheckext c) s = exec (.necCheckext a) s) ∧
    exec (.necCheckext 0) s = .next { s with port := .answered ⟨.ok, 0⟩ }

/-! ### NvidiaShutterDecoder (42_nvidia_shutter_decoder.md) -/

/-- NV_INIT (R150). -/
def Obligations.NvInitDropsTheSynchronisation : Prop :=
  ∀ (s : State) (inst : Nat) (a b : Word),
    (inst < 16 → decode ⟨BitVec.ofNat 16 (0x4000 + inst), a, b⟩ = .ok (.nvInit inst)) ∧
    rejectsFields 0x4000 badOneInst s a b ∧
    (∀ r, s.nv[inst]? = some r →
      exec (.nvInit inst) s = .next
        { s with
          nv := s.nv.set inst { r with phase := .off, sync := false, pos := 0 }
          port := .answered ⟨.ok, 0⟩ }) ∧
    (s.nv.length ≤ inst → exec (.nvInit inst) s = .next { s with port := .answered ⟨.errInst, 0⟩ })

/-- NV_EDGE (R151): a falling edge (R155) and a repeated timestamp (R162) change nothing; the anchor (R153); the optimistic advance (R154) and its wrap at 6 (R156; the unreachable position 7 goes to 0 too); an unsynchronised edge that is no anchor. The answer is the phase after the edge. -/
def Obligations.NvEdgeTransitions : Prop :=
  ∀ (s : State) (inst : Nat) (a b : Word),
    (inst < 16 → decode ⟨BitVec.ofNat 16 (0x4800 + inst), a, b⟩ = .ok (.nvEdge inst a (b.getLsbD 0))) ∧
    rejectsFields 0x4800 badOneInst s a b ∧
    (∀ (r : NvRegs) (d : Int), s.nv[inst]? = some r →
      d = interval s.params.tw (lowBits s.params.tw a) r.prevRise →
      exec (.nvEdge inst a false) s = .next
        { s with port := .answered ⟨.ok, r.phase.code.setWidth 32⟩ } ∧
      (d = 0 → exec (.nvEdge inst a true) s = .next
        { s with port := .answered ⟨.ok, r.phase.code.setWidth 32⟩ }) ∧
      (97 ≤ d ∧ d ≤ 107 → exec (.nvEdge inst a true) s = .next
        { s with
          nv := s.nv.set inst
            { idle := r.idle, phase := .off, sync := true, pos := 0
              prevRise := lowBits s.params.tw a, lastEdge := lowBits s.params.tw a }
          port := .answered ⟨.ok, 0⟩ }) ∧
      (d ≠ 0 → ¬ (97 ≤ d ∧ d ≤ 107) → r.sync = false → exec (.nvEdge inst a true) s = .next
        { s with
          nv := s.nv.set inst { r with prevRise := lowBits s.params.tw a, lastEdge := lowBits s.params.tw a }
          port := .answered ⟨.ok, r.phase.code.setWidth 32⟩ }) ∧
      (∀ (pos : BitVec 3) (phase : NvPhase) (data : Word), d ≠ 0 → ¬ (97 ≤ d ∧ d ≤ 107) → r.sync = true →
        (r.pos, pos, phase, data) ∈
          [(0, 1, NvPhase.leftOpen, 1), (1, 2, .off, 0), (2, 3, .off, 0), (3, 4, .rightOpen, 2),
           (4, 5, .rightOpen, 2), (5, 6, .off, 0), (6, 0, .off, 0), (7, 0, .off, 0)] →
        exec (.nvEdge inst a true) s = .next
          { s with
            nv := s.nv.set inst
              { idle := r.idle, phase := phase, sync := true, pos := pos
                prevRise := lowBits s.params.tw a, lastEdge := lowBits s.params.tw a }
            port := .answered ⟨.ok, data⟩ })) ∧
    (s.nv.length ≤ inst → ∀ level,
      exec (.nvEdge inst a level) s = .next { s with port := .answered ⟨.errInst, 0⟩ })

/-- NV_IDLE (R157): strictly more than IDLE since LASTEDGE drops the phase and the synchronisation; otherwise nothing changes. -/
def Obligations.NvIdleTimesOut : Prop :=
  ∀ (s : State) (inst : Nat) (a b : Word),
    (inst < 16 → decode ⟨BitVec.ofNat 16 (0x5000 + inst), a, b⟩ = .ok (.nvIdle inst a)) ∧
    rejectsFields 0x5000 badOneInst s a b ∧
    (∀ (r : NvRegs) (elapsed : Int), s.nv[inst]? = some r →
      elapsed = interval s.params.tw (lowBits s.params.tw a) r.lastEdge →
      ((uVal s.params.tw r.idle : Int) < elapsed → exec (.nvIdle inst a) s = .next
        { s with
          nv := s.nv.set inst { r with phase := .off, sync := false, pos := 0 }
          port := .answered ⟨.ok, 0⟩ }) ∧
      (elapsed ≤ (uVal s.params.tw r.idle : Int) → exec (.nvIdle inst a) s = .next
        { s with port := .answered ⟨.ok, r.phase.code.setWidth 32⟩ })) ∧
    (s.nv.length ≤ inst → exec (.nvIdle inst a) s = .next { s with port := .answered ⟨.errInst, 0⟩ })

/-- Self-healing (R161): from an anchor on, a clean cycle of R159's shapes gives R161's phases edge by edge and ends at the next anchor, wherever the shapes start, provided no rise-to-rise gap between shapes is 0 or in the anchor's window (the premise R160 leaves to the signal). -/
def Obligations.NvCleanCycleGivesThePhases : Prop :=
  ∀ (s : State) (inst : Nat) (r : NvRegs) (lo lc ro rc : Word), s.params.legal = true →
    s.nv[inst]? = some r → r.sync = true → r.pos = 0 →
    plainGap s.params.tw lo r.prevRise → plainGap s.params.tw lc lo →
    plainGap s.params.tw ro (lc + 44) → plainGap s.params.tw rc (ro + 69) →
    ∃ u r', execAll (Shape.lo.commands inst lo ++ Shape.lc.commands inst lc ++ Shape.ro.commands inst ro ++
        Shape.rc.commands inst rc) s =
      some (u, [1, 1, 0, 0, 0, 0, 2, 2, 2, 2, 0, 0, 0, 0].map fun d => ⟨.ok, d⟩) ∧
      u.nv[inst]? = some r' ∧ r'.sync = true ∧ r'.pos = 0 ∧ r'.phase = .off

/-- The premise-free start (R282): a rising edge at `t`, then NV_INIT, from any state: OFF, unsynchronised, position 0, PREVRISE = t; LASTEDGE is t, or what it was if the edge repeated PREVRISE's timestamp. -/
def Obligations.NvPremiseFreeStart : Prop :=
  ∀ (s : State) (inst : Nat) (t : Word) (r : NvRegs), s.params.legal = true → s.nv[inst]? = some r →
    ∃ u r' x, execAll [.nvEdge inst t true, .nvInit inst] s = some (u, [x, ⟨.ok, 0⟩]) ∧
      u.nv[inst]? = some r' ∧ r'.phase = .off ∧ r'.sync = false ∧ r'.pos = 0 ∧
      uVal s.params.tw r'.prevRise = uVal s.params.tw t ∧
      (interval s.params.tw t r.prevRise ≠ 0 → r'.lastEdge = lowBits s.params.tw t) ∧
      (interval s.params.tw t r.prevRise = 0 → r'.lastEdge = r.lastEdge)

/-! ### ZeroCrossingInterpolator (43_zero_crossing_interpolator.md) -/

/-- ZX_INIT (R180), for samples the operand word carries whole, SW ≤ 32. For every SW see `ZxEverySampleWidth`. -/
def Obligations.ZxInitStoresThePair : Prop :=
  ∀ (s : State) (inst : Nat) (a b : Word),
    (inst < 16 → decode ⟨BitVec.ofNat 16 (0x6000 + inst), a, b⟩ = .ok (.zxInit inst a b)) ∧
    rejectsFields 0x6000 badOneInst s a b ∧
    (∀ r, s.zx[inst]? = some r → s.params.sw ≤ 32 →
      exec (.zxInit inst a b) s = .next
        { s with
          zx := s.zx.set inst
            { prevT := lowBits s.params.tw a, prevF := lowBits s.params.sw b, lastX := r.lastX }
          port := .answered ⟨.ok, 0⟩ }) ∧
    (s.zx.length ≤ inst → exec (.zxInit inst a b) s = .next { s with port := .answered ⟨.errInst, 0⟩ })

/-- ZX_FEED (R182), for samples the operand word carries whole, SW ≤ 32: the pair is stored always; on a change of sign class, zero being non-negative, LASTX takes the floor of the exact quotient and the answer is 1; otherwise LASTX stays and the answer is 0. For every SW see `ZxEverySampleWidth`. -/
def Obligations.ZxFeedInterpolates : Prop :=
  ∀ (s : State) (inst : Nat) (a b : Word),
    (inst < 16 → decode ⟨BitVec.ofNat 16 (0x6800 + inst), a, b⟩ = .ok (.zxFeed inst a b)) ∧
    rejectsFields 0x6800 badOneInst s a b ∧
    (∀ (r : ZxRegs) (t0 t1 f0 f1 : Int), s.zx[inst]? = some r → s.params.sw ≤ 32 →
      t0 = uVal s.params.tw r.prevT → t1 = uVal s.params.tw (lowBits s.params.tw a : TimeReg) →
      f0 = sVal s.params.sw r.prevF → f1 = sVal s.params.sw b →
      (((f0 < 0 ∧ 0 ≤ f1) ∨ (0 ≤ f0 ∧ f1 < 0)) →
        exec (.zxFeed inst a b) s = .next
          { s with
            zx := s.zx.set inst
              { prevT := lowBits s.params.tw a, prevF := lowBits s.params.sw b
                lastX := wrapTo s.params.tw ((f1 * t0 - f0 * t1).fdiv (f1 - f0)) }
            port := .answered ⟨.ok, 1⟩ }) ∧
      (((f0 < 0 ∧ f1 < 0) ∨ (0 ≤ f0 ∧ 0 ≤ f1)) →
        exec (.zxFeed inst a b) s = .next
          { s with
            zx := s.zx.set inst
              { prevT := lowBits s.params.tw a, prevF := lowBits s.params.sw b, lastX := r.lastX }
            port := .answered ⟨.ok, 0⟩ })) ∧
    (s.zx.length ≤ inst → exec (.zxFeed inst a b) s = .next { s with port := .answered ⟨.errInst, 0⟩ })

/-- The model's choice (log 7), not the spec's, where SW > 32 and a sample has bits the operand word does not carry: ZX_INIT and ZX_FEED then take a sample whose low 32 bits are B's and whose other bits are free, and do with it what R180 and R182 say; REG_RD of PREVF answers its low 32 bits, so B after either. The equations hold for every SW. -/
def Obligations.ZxEverySampleWidth : Prop :=
  ∀ (s : State) (inst : Nat) (a b : Word) (r : ZxRegs) (f : SampleReg) (t0 t1 f0 f1 : Int),
    s.zx[inst]? = some r → f = sampleOperand s.params b →
    t0 = uVal s.params.tw r.prevT → t1 = uVal s.params.tw (lowBits s.params.tw a : TimeReg) →
    f0 = sVal s.params.sw r.prevF → f1 = sVal s.params.sw f →
    (exec (.zxInit inst a b) s = .next
      { s with
        zx := s.zx.set inst { prevT := lowBits s.params.tw a, prevF := f, lastX := r.lastX }
        port := .answered ⟨.ok, 0⟩ }) ∧
    (exec (.zxFeed inst a b) s = .next
      { s with
        zx := s.zx.set inst
          { prevT := lowBits s.params.tw a, prevF := f
            lastX := if (f0 < 0 ↔ f1 < 0) then r.lastX
              else wrapTo s.params.tw ((f1 * t0 - f0 * t1).fdiv (f1 - f0)) }
        port := .answered ⟨.ok, if (f0 < 0 ↔ f1 < 0) then 0 else 1⟩ }) ∧
    readsAs s inst 0x311 ((r.prevF.setWidth s.params.sw).signExtend 32) ∧
    (32 < s.params.sw → f.setWidth 32 = b ∧ readsAs s inst 0x311 (r.prevF.setWidth 32) ∧
      ∀ u, exec (.zxInit inst a b) s = .next u ∨ exec (.zxFeed inst a b) s = .next u → readsAs u inst 0x311 b)

/-- On a crossing the interpolated time lies between the two timestamps, so that LASTX holds it unwrapped (R185). For SW > 32 the sample has the free bits of log 7, the model's choice. -/
def Obligations.ZxCrossingTimeLiesBetween : Prop :=
  ∀ (s u : State) (inst : Nat) (a b : Word) (r : ZxRegs), s.params.legal = true → s.zx[inst]? = some r →
    exec (.zxFeed inst a b) s = .next u → u.port = .answered ⟨.ok, 1⟩ →
    ∃ r' zx, u.zx[inst]? = some r' ∧ uVal s.params.tw r'.lastX = zx ∧
      (zx : Int) = (sVal s.params.sw (sampleOperand s.params b) * uVal s.params.tw r.prevT -
          sVal s.params.sw r.prevF * uVal s.params.tw a).fdiv
        (sVal s.params.sw (sampleOperand s.params b) - sVal s.params.sw r.prevF) ∧
      min (uVal s.params.tw r.prevT) (uVal s.params.tw a) ≤ zx ∧
      zx ≤ max (uVal s.params.tw r.prevT) (uVal s.params.tw a)

/-- Equal timestamps (R188): a crossing between samples of one timestamp is at that timestamp, and feeding one pair twice never reports a second crossing. For SW > 32 the sample has the free bits of log 7, the model's choice, the same at both feeds. -/
def Obligations.ZxEqualTimestamps : Prop :=
  ∀ (s : State) (inst : Nat) (a b : Word) (r : ZxRegs), s.params.legal = true → s.zx[inst]? = some r →
    (∀ u, r.prevT = lowBits s.params.tw a → exec (.zxFeed inst a b) s = .next u → u.port = .answered ⟨.ok, 1⟩ →
      ∃ r', u.zx[inst]? = some r' ∧ uVal s.params.tw r'.lastX = uVal s.params.tw a) ∧
    ∃ v x, execAll [.zxFeed inst a b, .zxFeed inst a b] s = some (v, [x, ⟨.ok, 0⟩])

/-! ### CycleTracker (44_cycle_tracker.md) -/

/-- CT_INIT (R200). -/
def Obligations.CtInitForgetsTheCycle : Prop :=
  ∀ (s : State) (inst : Nat) (a b : Word),
    (inst < 16 → decode ⟨BitVec.ofNat 16 (0x8000 + inst), a, b⟩ = .ok (.ctInit inst)) ∧
    rejectsFields 0x8000 badOneInst s a b ∧
    (∀ r, s.ct[inst]? = some r →
      exec (.ctInit inst) s = .next
        { s with ct := s.ct.set inst { r with cycle := 0 }, port := .answered ⟨.ok, 0⟩ }) ∧
    (s.ct.length ≤ inst → exec (.ctInit inst) s = .next { s with port := .answered ⟨.errInst, 0⟩ })

/-- CT_UPDATE (R202): the first mark (R203), the second, which seeds the average (R204), and a running one (R205), by CYCLE's sign alone (R201). -/
def Obligations.CtUpdateByLifecycle : Prop :=
  ∀ (s : State) (inst : Nat) (a b : Word),
    (inst < 16 → decode ⟨BitVec.ofNat 16 (0x8800 + inst), a, b⟩ = .ok (.ctUpdate inst a)) ∧
    rejectsFields 0x8800 badOneInst s a b ∧
    (∀ (r : CtRegs) (n v : Int), s.ct[inst]? = some r →
      n = interval s.params.tw (lowBits s.params.tw a) r.lastMark → v = sVal (s.params.tw + 15) r.smooth →
      (sVal s.params.tw r.cycle = 0 → exec (.ctUpdate inst a) s = .next
        { s with
          ct := s.ct.set inst { r with cycle := wrapTo s.params.tw (-1), lastMark := lowBits s.params.tw a }
          port := .answered ⟨.ok, 0⟩ }) ∧
      (sVal s.params.tw r.cycle < 0 → exec (.ctUpdate inst a) s = .next
        { s with
          ct := s.ct.set inst
            { e := r.e, cycle := wrapTo s.params.tw n, lastMark := lowBits s.params.tw a
              smooth := wrapTo (s.params.tw + 15) (n * 2 ^ r.e.toNat) }
          port := .answered ⟨.ok, 0⟩ }) ∧
      (0 < sVal s.params.tw r.cycle → exec (.ctUpdate inst a) s = .next
        { s with
          ct := s.ct.set inst
            { e := r.e, cycle := wrapTo s.params.tw n, lastMark := lowBits s.params.tw a
              smooth := wrapTo (s.params.tw + 15) (v + n - v.fdiv (2 ^ r.e.toNat)) }
          port := .answered ⟨.ok, 0⟩ })) ∧
    (s.ct.length ≤ inst → exec (.ctUpdate inst a) s = .next { s with port := .answered ⟨.errInst, 0⟩ })

/-- The stage after a mark is the sign of the measured interval, zero and negative intervals among them; after the first mark it is OneSample (R203, R206). -/
def Obligations.CtStageAfterMark : Prop :=
  ∀ (s u : State) (inst : Nat) (a : Word) (r : CtRegs) (n : Int), s.params.legal = true → s.ct[inst]? = some r →
    n = interval s.params.tw a r.lastMark → exec (.ctUpdate inst a) s = .next u →
    ∃ r', u.ct[inst]? = some r' ∧ r'.lastMark = lowBits s.params.tw a ∧
      (r.lifecycle s.params = .unseen → r'.lifecycle s.params = .oneSample ∧ r'.smooth = r.smooth) ∧
      (r.lifecycle s.params ≠ .unseen → sVal s.params.tw r'.cycle = n ∧
        (n = 0 → r'.lifecycle s.params = .unseen) ∧ (n < 0 → r'.lifecycle s.params = .oneSample) ∧
        (0 < n → r'.lifecycle s.params = .running))

/-- The fixed point (R207): the second mark with interval n > 0 seeds SMOOTH with n·2^e, a running mark with the same interval keeps it, and CT_SMOOTHUS then answers n. -/
def Obligations.CtConstantIntervalIsFixedPoint : Prop :=
  ∀ (s u : State) (inst : Nat) (a : Word) (r : CtRegs) (n : Int), s.params.legal = true → s.ct[inst]? = some r →
    n = interval s.params.tw a r.lastMark → 0 < n → exec (.ctUpdate inst a) s = .next u →
    (r.lifecycle s.params = .oneSample ∨
      (r.lifecycle s.params = .running ∧ sVal (s.params.tw + 15) r.smooth = n * 2 ^ r.e.toNat)) →
    ∃ r', u.ct[inst]? = some r' ∧ sVal (s.params.tw + 15) r'.smooth = n * 2 ^ r.e.toNat ∧
      exec (.ctSmoothus inst) u = .next { u with port := .answered ⟨.ok, BitVec.ofInt 32 n⟩ }

/-- One step of R207's convergence, a running mark with interval n > 0: SMOOTH stays where it reads n, rises towards n·2^e from below it, and falls towards it from (n + 1)·2^e or more, never past it. -/
def Obligations.CtAverageMovesTowardsTheInterval : Prop :=
  ∀ (s u : State) (inst : Nat) (a : Word) (r : CtRegs) (n v : Int), s.params.legal = true → s.ct[inst]? = some r →
    n = interval s.params.tw a r.lastMark → 0 < n → r.lifecycle s.params = .running →
    v = sVal (s.params.tw + 15) r.smooth → exec (.ctUpdate inst a) s = .next u →
    ∃ r' v', u.ct[inst]? = some r' ∧ v' = sVal (s.params.tw + 15) r'.smooth ∧
      (v.fdiv (2 ^ r.e.toNat) = n → v' = v) ∧
      (v < n * 2 ^ r.e.toNat → v < v' ∧ v' ≤ n * 2 ^ r.e.toNat) ∧
      ((n + 1) * 2 ^ r.e.toNat ≤ v → n * 2 ^ r.e.toNat ≤ v' ∧ v' < v)

/-- Convergence (R207): from a running tracker, whatever SMOOTH holds and for every e, marks a constant n > 0 apart bring CT_SMOOTHUS to n after finitely many, and it stays n. -/
def Obligations.CtAverageConverges : Prop :=
  ∀ (s : State) (inst : Nat) (t : Word) (r : CtRegs) (n : Nat), s.params.legal = true → s.ct[inst]? = some r →
    r.lifecycle s.params = .running → r.lastMark = lowBits s.params.tw t → 0 < n → n < 2 ^ (s.params.tw - 1) →
    ∃ enough : Nat, ∀ k, enough ≤ k →
      ∃ u, execAll (evenMarks inst t n k ++ [.ctSmoothus inst]) s =
        some (u, List.replicate k ⟨.ok, 0⟩ ++ [⟨.ok, BitVec.ofNat 32 n⟩])

/-- CT_ISVALID (R208), CT_CYCLEUS (R211) and CT_SMOOTHUS (R212). -/
def Obligations.CtAccessorsAnswer : Prop :=
  ∀ (s : State) (inst : Nat) (a b : Word),
    (inst < 16 →
      decode ⟨BitVec.ofNat 16 (0x9000 + inst), a, b⟩ = .ok (.ctIsvalid inst) ∧
      decode ⟨BitVec.ofNat 16 (0xA000 + inst), a, b⟩ = .ok (.ctCycleus inst) ∧
      decode ⟨BitVec.ofNat 16 (0xA800 + inst), a, b⟩ = .ok (.ctSmoothus inst)) ∧
    rejectsFields 0x9000 badOneInst s a b ∧ rejectsFields 0xA000 badOneInst s a b ∧
    rejectsFields 0xA800 badOneInst s a b ∧
    (∀ r, s.ct[inst]? = some r →
      exec (.ctIsvalid inst) s = .next
        { s with port := .answered ⟨.ok, if 0 < sVal s.params.tw r.cycle then 1 else 0⟩ } ∧
      exec (.ctCycleus inst) s = .next
        { s with port := .answered ⟨.ok, (r.cycle.setWidth s.params.tw).signExtend 32⟩ } ∧
      exec (.ctSmoothus inst) s = .next
        { s with port := .answered ⟨.ok,
          BitVec.ofInt 32 ((sVal (s.params.tw + 15) r.smooth).fdiv (2 ^ r.e.toNat))⟩ }) ∧
    (s.ct.length ≤ inst →
      exec (.ctIsvalid inst) s = .next { s with port := .answered ⟨.errInst, 0⟩ } ∧
      exec (.ctCycleus inst) s = .next { s with port := .answered ⟨.errInst, 0⟩ } ∧
      exec (.ctSmoothus inst) s = .next { s with port := .answered ⟨.errInst, 0⟩ })

/-- CT_ISROTATING (R209): 1 iff the signed elapsed time is strictly below the unsigned threshold, whatever the stage. So a negative elapsed time answers 1 at every threshold, 0 among them: that is R209's pseudocode and D20, while R210's sentence that a threshold of 0 never reports rotating says otherwise there; following R209 at that value is the model's choice (log 17). -/
def Obligations.CtIsrotatingIsStrict : Prop :=
  ∀ (s : State) (inst : Nat) (a b : Word),
    (inst < 16 → decode ⟨BitVec.ofNat 16 (0x9800 + inst), a, b⟩ = .ok (.ctIsrotating inst a b)) ∧
    rejectsFields 0x9800 badOneInst s a b ∧
    (∀ r, s.ct[inst]? = some r →
      exec (.ctIsrotating inst a b) s = .next
        { s with port := .answered ⟨.ok,
          if interval s.params.tw (lowBits s.params.tw a) r.lastMark < (uVal s.params.tw b : Int) then 1 else 0⟩ }) ∧
    (s.ct.length ≤ inst →
      exec (.ctIsrotating inst a b) s = .next { s with port := .answered ⟨.errInst, 0⟩ })

/-- CT_SPEEDCLOSE (R214) and CT_AVGCLOSE (R215): `|x − y|·fraction ≤ x` in exact integers, tracker INST the reference, each smoothed length with its own E. -/
def Obligations.CtComparisonsAnswer : Prop :=
  ∀ (s : State) (inst instb : Nat) (a b : Word),
    (inst < 16 → instb < 16 →
      decode ⟨BitVec.ofNat 16 (0xB000 + instb * 16 + inst), a, b⟩ = .ok (.ctSpeedclose inst instb a) ∧
      decode ⟨BitVec.ofNat 16 (0xB800 + instb * 16 + inst), a, b⟩ = .ok (.ctAvgclose inst instb a)) ∧
    rejectsFields 0xB000 badTwoInst s a b ∧ rejectsFields 0xB800 badTwoInst s a b ∧
    (∀ (p q : CtRegs) (x y : Int), s.ct[inst]? = some p → s.ct[instb]? = some q →
      (x = sVal s.params.tw p.cycle → y = sVal s.params.tw q.cycle →
        exec (.ctSpeedclose inst instb a) s = .next
          { s with port := .answered ⟨.ok, if |x - y| * (a.toNat : Int) ≤ x then 1 else 0⟩ }) ∧
      (x = (sVal (s.params.tw + 15) p.smooth).fdiv (2 ^ p.e.toNat) →
        y = (sVal (s.params.tw + 15) q.smooth).fdiv (2 ^ q.e.toNat) →
        exec (.ctAvgclose inst instb a) s = .next
          { s with port := .answered ⟨.ok, if |x - y| * (a.toNat : Int) ≤ x then 1 else 0⟩ })) ∧
    (s.ct.length ≤ inst ∨ s.ct.length ≤ instb →
      exec (.ctSpeedclose inst instb a) s = .next { s with port := .answered ⟨.errInst, 0⟩ } ∧
      exec (.ctAvgclose inst instb a) s = .next { s with port := .answered ⟨.errInst, 0⟩ })

/-- The source's properties of the comparison (R217, R214's corner cases): equal positive cycle lengths are close at every fraction; a reference in OneSample is close to nothing; a valid reference is not close where |Δ|·fraction exceeds it. -/
def Obligations.CtSpeedcloseProperties : Prop :=
  ∀ (s : State) (inst instb : Nat) (a : Word) (p q : CtRegs), s.ct[inst]? = some p → s.ct[instb]? = some q →
    (p.lifecycle s.params = .running → sVal s.params.tw q.cycle = sVal s.params.tw p.cycle →
      exec (.ctSpeedclose inst instb a) s = .next { s with port := .answered ⟨.ok, 1⟩ }) ∧
    (p.lifecycle s.params = .oneSample →
      exec (.ctSpeedclose inst instb a) s = .next { s with port := .answered ⟨.ok, 0⟩ }) ∧
    (sVal s.params.tw p.cycle < |sVal s.params.tw p.cycle - sVal s.params.tw q.cycle| * (a.toNat : Int) →
      exec (.ctSpeedclose inst instb a) s = .next { s with port := .answered ⟨.ok, 0⟩ })

/-! ### Register access (45_register_access.md, 20_memory.md R61, R62) -/

/-- REG_RD (R230): the read value of each of R62's 27 rows with nothing changed (PREVF where SW ≤ 32; for every SW see `ZxEverySampleWidth`); ERR_REG where the address is no row, bits above A[11] among them; ERR_INST where its block has no such instance. -/
def Obligations.RegRdReadsTheMap : Prop :=
  ∀ (s : State) (inst : Nat) (a b : Word),
    (inst < 16 → decode ⟨BitVec.ofNat 16 (0xF000 + inst), a, b⟩ = .ok (.regRd inst a)) ∧
    rejectsFields 0xF000 badOneInst s a b ∧
    (∀ r, s.pwc[inst]? = some r →
      readsAs s inst 0x000 ((r.min.setWidth s.params.tw).signExtend 32) ∧
      readsAs s inst 0x001 ((r.max.setWidth s.params.tw).signExtend 32) ∧
      readsAs s inst 0x010 ((r.prev.setWidth s.params.tw).setWidth 32)) ∧
    (∀ r, s.nec[inst]? = some r →
      readsAs s inst 0x100 ((r.hdr.setWidth s.params.tw).setWidth 32) ∧
      readsAs s inst 0x101 ((r.one.setWidth s.params.tw).setWidth 32) ∧
      readsAs s inst 0x102 ((r.zero.setWidth s.params.tw).setWidth 32) ∧
      readsAs s inst 0x103 ((r.tol.setWidth s.params.tw).setWidth 32) ∧
      readsAs s inst 0x110 (if r.state = .collect then 1 else 0) ∧
      readsAs s inst 0x111 (r.bitIdx.setWidth 32) ∧ readsAs s inst 0x112 r.acc ∧
      readsAs s inst 0x113 ((r.prev.setWidth s.params.tw).setWidth 32)) ∧
    (∀ r, s.nv[inst]? = some r →
      readsAs s inst 0x200 102 ∧ readsAs s inst 0x201 5 ∧
      readsAs s inst 0x202 ((r.idle.setWidth s.params.tw).setWidth 32) ∧
      readsAs s inst 0x210 (match r.phase with | .off => 0 | .leftOpen => 1 | .rightOpen => 2) ∧
      readsAs s inst 0x211 (if r.sync then 1 else 0) ∧ readsAs s inst 0x212 (r.pos.setWidth 32) ∧
      readsAs s inst 0x213 ((r.prevRise.setWidth s.params.tw).setWidth 32) ∧
      readsAs s inst 0x214 ((r.lastEdge.setWidth s.params.tw).setWidth 32)) ∧
    (∀ r, s.zx[inst]? = some r →
      readsAs s inst 0x310 ((r.prevT.setWidth s.params.tw).setWidth 32) ∧
      (s.params.sw ≤ 32 → readsAs s inst 0x311 ((r.prevF.setWidth s.params.sw).signExtend 32)) ∧
      readsAs s inst 0x312 ((r.lastX.setWidth s.params.tw).setWidth 32)) ∧
    (∀ r, s.ct[inst]? = some r →
      readsAs s inst 0x400 (r.e.setWidth 32) ∧
      readsAs s inst 0x410 ((r.cycle.setWidth s.params.tw).signExtend 32) ∧
      readsAs s inst 0x411 ((r.lastMark.setWidth s.params.tw).setWidth 32) ∧
      readsAs s inst 0x412 (((r.smooth.setWidth (s.params.tw + 15)).signExtend 64).extractLsb' 0 32) ∧
      readsAs s inst 0x413 (((r.smooth.setWidth (s.params.tw + 15)).signExtend 64).extractLsb' 32 32)) ∧
    (¬ isRegister a → exec (.regRd inst a) s = .next { s with port := .answered ⟨.errReg, 0⟩ }) ∧
    (noSuchInstance s a inst → exec (.regRd inst a) s = .next { s with port := .answered ⟨.errInst, 0⟩ })

/-- REG_WR (R232): the write effect of each RW row of R62, exactly the addressed field of the addressed instance, bits of B above its width ignored; ERR_REG, then ERR_INST, then ERR_RO in this order (R242). -/
def Obligations.RegWrWritesTheConfiguration : Prop :=
  ∀ (s : State) (inst : Nat) (a b : Word),
    (inst < 16 → decode ⟨BitVec.ofNat 16 (0xF800 + inst), a, b⟩ = .ok (.regWr inst a b)) ∧
    rejectsFields 0xF800 badOneInst s a b ∧
    (∀ r, s.pwc[inst]? = some r →
      exec (.regWr inst 0x000 b) s = .next { s with
        pwc := s.pwc.set inst { r with min := lowBits s.params.tw b }, port := .answered ⟨.ok, 0⟩ } ∧
      exec (.regWr inst 0x001 b) s = .next { s with
        pwc := s.pwc.set inst { r with max := lowBits s.params.tw b }, port := .answered ⟨.ok, 0⟩ }) ∧
    (∀ r, s.nec[inst]? = some r →
      exec (.regWr inst 0x100 b) s = .next { s with
        nec := s.nec.set inst { r with hdr := lowBits s.params.tw b }, port := .answered ⟨.ok, 0⟩ } ∧
      exec (.regWr inst 0x101 b) s = .next { s with
        nec := s.nec.set inst { r with one := lowBits s.params.tw b }, port := .answered ⟨.ok, 0⟩ } ∧
      exec (.regWr inst 0x102 b) s = .next { s with
        nec := s.nec.set inst { r with zero := lowBits s.params.tw b }, port := .answered ⟨.ok, 0⟩ } ∧
      exec (.regWr inst 0x103 b) s = .next { s with
        nec := s.nec.set inst { r with tol := lowBits s.params.tw b }, port := .answered ⟨.ok, 0⟩ }) ∧
    (∀ r, s.nv[inst]? = some r →
      exec (.regWr inst 0x202 b) s = .next { s with
        nv := s.nv.set inst { r with idle := lowBits s.params.tw b }, port := .answered ⟨.ok, 0⟩ }) ∧
    (∀ r, s.ct[inst]? = some r →
      exec (.regWr inst 0x400 b) s = .next { s with
        ct := s.ct.set inst { r with e := b.setWidth 4 }, port := .answered ⟨.ok, 0⟩ }) ∧
    (¬ isRegister a → exec (.regWr inst a b) s = .next { s with port := .answered ⟨.errReg, 0⟩ }) ∧
    (noSuchInstance s a inst → exec (.regWr inst a b) s = .next { s with port := .answered ⟨.errInst, 0⟩ }) ∧
    (isRegister a → ¬ noSuchInstance s a inst → a ∉ rwAddresses →
      exec (.regWr inst a b) s = .next { s with port := .answered ⟨.errRo, 0⟩ })

/-- What REG_WR wrote, REG_RD of the same address returns, cut to the field's width: sign-extended for PWC MIN and MAX, zero-extended for the others (R62). -/
def Obligations.RegWriteThenRead : Prop :=
  ∀ (s t : State) (inst : Nat) (a b : Word), s.params.legal = true →
    exec (.regWr inst a b) s = .next t → t.port = .answered ⟨.ok, 0⟩ →
    exec (.regRd inst a) t = .next { t with port := .answered ⟨.ok,
      if a = 0x000 ∨ a = 0x001 then (b.setWidth s.params.tw).signExtend 32
      else if a = 0x400 then (b.setWidth 4).setWidth 32
      else (b.setWidth s.params.tw).setWidth 32⟩ }

/-- The pseudo-command `nec.cfg` (R99): four REG_WR commands that set HDR, ONE, ZERO and TOL of the instance and nothing else. -/
def Obligations.NecCfgSetsTheFourFields : Prop :=
  ∀ (s : State) (inst : Nat) (hdr one zero tol : Word) (r : NecRegs), s.nec[inst]? = some r →
    execAll (expandPseudo (.necCfg inst hdr one zero tol)) s = some
      ({ s with
         nec := s.nec.set inst
           { r with hdr := lowBits s.params.tw hdr, one := lowBits s.params.tw one
                    zero := lowBits s.params.tw zero, tol := lowBits s.params.tw tol }
         port := .answered ⟨.ok, 0⟩ },
       List.replicate 4 ⟨.ok, 0⟩)
end

