-- ==== Sys2Proof/Laws/Operands.lean ====
section
/-! SUPPORT. The spec's notation: what the patterns and numbers of Operands and Flags are. -/

namespace Sys2Proof.Machine

@[simp] theorem boolWord_true : boolWord true = 1 := rfl

@[simp] theorem boolWord_false : boolWord false = 0 := rfl

theorem boolWord_eq_one_iff (v : Bool) : boolWord v = 1 ↔ v = true := by cases v <;> decide

theorem inRange_iff (lo hi dt : Int) : inRange lo hi dt = true ↔ lo ≤ dt ∧ dt ≤ hi := by
  simp [inRange]

theorem inWindow_iff (c tol : Nat) (dt : Int) :
    inWindow c tol dt = true ↔ (c : Int) - tol ≤ dt ∧ dt ≤ (c : Int) + tol := by
  simp [inWindow, inRange]

theorem crosses_iff (f0 f1 : Int) : crosses f0 f1 = true ↔ ((f0 < 0) ↔ ¬ f1 < 0) := by
  unfold crosses negative
  by_cases h0 : f0 < 0 <;> by_cases h1 : f1 < 0 <;> simp [h0, h1]

/-- Reading signed what was wrapped gives the balanced remainder. -/
theorem sVal_wrapTo (n w : Nat) (x : Int) (h : n ≤ w) :
    sVal n (wrapTo n x : BitVec w) = (BitVec.ofInt n x).toInt := by
  simp [sVal, wrapTo, BitVec.setWidth_setWidth_of_le _ h]

/-- A low-bits pattern reads as the pattern it was taken from. -/
theorem uVal_lowBits (n w m : Nat) (v : BitVec w) (h : n ≤ m) :
    uVal n (lowBits n v : BitVec m) = uVal n v := by
  simp [uVal, lowBits, BitVec.setWidth_setWidth_of_le _ h]

theorem sVal_lowBits (n w m : Nat) (v : BitVec w) (h : n ≤ m) :
    sVal n (lowBits n v : BitVec m) = sVal n v := by
  simp [sVal, lowBits, BitVec.setWidth_setWidth_of_le _ h]

theorem uVal_lt (n w : Nat) (v : BitVec w) : uVal n v < 2 ^ n := (v.setWidth n).isLt

/-- A pattern held in more bits has no bit at or above its own width. -/
theorem toNat_lowBits_lt (n w m : Nat) (v : BitVec w) : (lowBits n v : BitVec m).toNat < 2 ^ n := by
  unfold lowBits
  rw [BitVec.toNat_setWidth]
  exact lt_of_le_of_lt (Nat.mod_le _ _) (v.setWidth n).isLt

theorem toNat_wrapTo_lt (n m : Nat) (x : Int) : (wrapTo n x : BitVec m).toNat < 2 ^ n := by
  unfold wrapTo
  rw [BitVec.toNat_setWidth]
  exact lt_of_le_of_lt (Nat.mod_le _ _) (BitVec.ofInt n x).isLt

/-- An interval is the difference of the timestamps, taken modulo 2^TW into the signed range (10_state.md R21). -/
theorem interval_eq_bmod (tw : Nat) (t p : TimeReg) :
    interval tw t p = ((uVal tw t : Int) - (uVal tw p : Int)).bmod (2 ^ tw) := by
  simp [interval, BitVec.toInt_ofInt]

@[simp] theorem interval_self (tw : Nat) (t : TimeReg) : interval tw t t = 0 := by
  simp [interval]

end Sys2Proof.Machine
end

