-- ==== Sys2Proof/Laws/State.lean ====
section
/-! SUPPORT. What each named update of State leaves of every field. -/

namespace Sys2Proof.Machine

@[simp] theorem State.setPwc_params (s : State) (i : Nat) (r : PwcRegs) : (s.setPwc i r).params = s.params := rfl
@[simp] theorem State.setPwc_pwc (s : State) (i : Nat) (r : PwcRegs) : (s.setPwc i r).pwc = s.pwc.set i r := rfl
@[simp] theorem State.setPwc_nec (s : State) (i : Nat) (r : PwcRegs) : (s.setPwc i r).nec = s.nec := rfl
@[simp] theorem State.setPwc_nv (s : State) (i : Nat) (r : PwcRegs) : (s.setPwc i r).nv = s.nv := rfl
@[simp] theorem State.setPwc_zx (s : State) (i : Nat) (r : PwcRegs) : (s.setPwc i r).zx = s.zx := rfl
@[simp] theorem State.setPwc_ct (s : State) (i : Nat) (r : PwcRegs) : (s.setPwc i r).ct = s.ct := rfl
@[simp] theorem State.setPwc_port (s : State) (i : Nat) (r : PwcRegs) : (s.setPwc i r).port = s.port := rfl
@[simp] theorem State.setPwc_pending (s : State) (i : Nat) (r : PwcRegs) : (s.setPwc i r).pending = s.pending := rfl

@[simp] theorem State.setNec_params (s : State) (i : Nat) (r : NecRegs) : (s.setNec i r).params = s.params := rfl
@[simp] theorem State.setNec_pwc (s : State) (i : Nat) (r : NecRegs) : (s.setNec i r).pwc = s.pwc := rfl
@[simp] theorem State.setNec_nec (s : State) (i : Nat) (r : NecRegs) : (s.setNec i r).nec = s.nec.set i r := rfl
@[simp] theorem State.setNec_nv (s : State) (i : Nat) (r : NecRegs) : (s.setNec i r).nv = s.nv := rfl
@[simp] theorem State.setNec_zx (s : State) (i : Nat) (r : NecRegs) : (s.setNec i r).zx = s.zx := rfl
@[simp] theorem State.setNec_ct (s : State) (i : Nat) (r : NecRegs) : (s.setNec i r).ct = s.ct := rfl
@[simp] theorem State.setNec_port (s : State) (i : Nat) (r : NecRegs) : (s.setNec i r).port = s.port := rfl
@[simp] theorem State.setNec_pending (s : State) (i : Nat) (r : NecRegs) : (s.setNec i r).pending = s.pending := rfl

@[simp] theorem State.setNv_params (s : State) (i : Nat) (r : NvRegs) : (s.setNv i r).params = s.params := rfl
@[simp] theorem State.setNv_pwc (s : State) (i : Nat) (r : NvRegs) : (s.setNv i r).pwc = s.pwc := rfl
@[simp] theorem State.setNv_nec (s : State) (i : Nat) (r : NvRegs) : (s.setNv i r).nec = s.nec := rfl
@[simp] theorem State.setNv_nv (s : State) (i : Nat) (r : NvRegs) : (s.setNv i r).nv = s.nv.set i r := rfl
@[simp] theorem State.setNv_zx (s : State) (i : Nat) (r : NvRegs) : (s.setNv i r).zx = s.zx := rfl
@[simp] theorem State.setNv_ct (s : State) (i : Nat) (r : NvRegs) : (s.setNv i r).ct = s.ct := rfl
@[simp] theorem State.setNv_port (s : State) (i : Nat) (r : NvRegs) : (s.setNv i r).port = s.port := rfl
@[simp] theorem State.setNv_pending (s : State) (i : Nat) (r : NvRegs) : (s.setNv i r).pending = s.pending := rfl

@[simp] theorem State.setZx_params (s : State) (i : Nat) (r : ZxRegs) : (s.setZx i r).params = s.params := rfl
@[simp] theorem State.setZx_pwc (s : State) (i : Nat) (r : ZxRegs) : (s.setZx i r).pwc = s.pwc := rfl
@[simp] theorem State.setZx_nec (s : State) (i : Nat) (r : ZxRegs) : (s.setZx i r).nec = s.nec := rfl
@[simp] theorem State.setZx_nv (s : State) (i : Nat) (r : ZxRegs) : (s.setZx i r).nv = s.nv := rfl
@[simp] theorem State.setZx_zx (s : State) (i : Nat) (r : ZxRegs) : (s.setZx i r).zx = s.zx.set i r := rfl
@[simp] theorem State.setZx_ct (s : State) (i : Nat) (r : ZxRegs) : (s.setZx i r).ct = s.ct := rfl
@[simp] theorem State.setZx_port (s : State) (i : Nat) (r : ZxRegs) : (s.setZx i r).port = s.port := rfl
@[simp] theorem State.setZx_pending (s : State) (i : Nat) (r : ZxRegs) : (s.setZx i r).pending = s.pending := rfl

@[simp] theorem State.setCt_params (s : State) (i : Nat) (r : CtRegs) : (s.setCt i r).params = s.params := rfl
@[simp] theorem State.setCt_pwc (s : State) (i : Nat) (r : CtRegs) : (s.setCt i r).pwc = s.pwc := rfl
@[simp] theorem State.setCt_nec (s : State) (i : Nat) (r : CtRegs) : (s.setCt i r).nec = s.nec := rfl
@[simp] theorem State.setCt_nv (s : State) (i : Nat) (r : CtRegs) : (s.setCt i r).nv = s.nv := rfl
@[simp] theorem State.setCt_zx (s : State) (i : Nat) (r : CtRegs) : (s.setCt i r).zx = s.zx := rfl
@[simp] theorem State.setCt_ct (s : State) (i : Nat) (r : CtRegs) : (s.setCt i r).ct = s.ct.set i r := rfl
@[simp] theorem State.setCt_port (s : State) (i : Nat) (r : CtRegs) : (s.setCt i r).port = s.port := rfl
@[simp] theorem State.setCt_pending (s : State) (i : Nat) (r : CtRegs) : (s.setCt i r).pending = s.pending := rfl

@[simp] theorem State.answer_params (s : State) (st : Status) (d : Word) : (s.answer st d).params = s.params := rfl
@[simp] theorem State.answer_pwc (s : State) (st : Status) (d : Word) : (s.answer st d).pwc = s.pwc := rfl
@[simp] theorem State.answer_nec (s : State) (st : Status) (d : Word) : (s.answer st d).nec = s.nec := rfl
@[simp] theorem State.answer_nv (s : State) (st : Status) (d : Word) : (s.answer st d).nv = s.nv := rfl
@[simp] theorem State.answer_zx (s : State) (st : Status) (d : Word) : (s.answer st d).zx = s.zx := rfl
@[simp] theorem State.answer_ct (s : State) (st : Status) (d : Word) : (s.answer st d).ct = s.ct := rfl
@[simp] theorem State.answer_port (s : State) (st : Status) (d : Word) : (s.answer st d).port = .answered ⟨st, d⟩ := rfl
@[simp] theorem State.answer_pending (s : State) (st : Status) (d : Word) : (s.answer st d).pending = s.pending := rfl

@[simp] theorem State.present_params (s : State) (c : Command) : (s.present c).params = s.params := by
  unfold State.present; split <;> rfl
@[simp] theorem State.present_pwc (s : State) (c : Command) : (s.present c).pwc = s.pwc := by
  unfold State.present; split <;> rfl
@[simp] theorem State.present_nec (s : State) (c : Command) : (s.present c).nec = s.nec := by
  unfold State.present; split <;> rfl
@[simp] theorem State.present_nv (s : State) (c : Command) : (s.present c).nv = s.nv := by
  unfold State.present; split <;> rfl
@[simp] theorem State.present_zx (s : State) (c : Command) : (s.present c).zx = s.zx := by
  unfold State.present; split <;> rfl
@[simp] theorem State.present_ct (s : State) (c : Command) : (s.present c).ct = s.ct := by
  unfold State.present; split <;> rfl
@[simp] theorem State.present_port (s : State) (c : Command) : (s.present c).port = 
    (match s.port with | .busy _ _ => .idle | p => p) := by
  unfold State.present; split <;> simp_all
@[simp] theorem State.present_pending (s : State) (c : Command) : (s.present c).pending = c :: s.pending := by
  unfold State.present; split <;> rfl

/-- The command a host presents is the one the next step performs, in the state it was presented in with the port idle. -/
theorem fetchCommand_present (s : State) (c : Command) :
    fetchCommand (s.present c) = some (c, { s with port := .idle }) := by
  unfold State.present fetchCommand
  cases h : s.port <;> simp

end Sys2Proof.Machine
end

