-- ==== Sys2Proof/Laws/Ops.lean ====
section
/-! SUPPORT. What each shared operation can do, once: on an instance that exists it answers OK with the registers and the word it is given, on any other ERR_INST with nothing changed. -/

namespace Sys2Proof.Machine

@[simp] theorem respond_eq (s : State) (d : Word) : respond s d = .next (s.answer .ok d) := rfl

@[simp] theorem raiseError_eq (e : Status) (s : State) : raiseError e s = .next (s.answer e 0) := rfl

@[simp] theorem rejectCommand_eq (e : Reject) (s : State) : rejectCommand e s = .next (s.answer .errOpc 0) := rfl

theorem onPwc_some {inst : Nat} {s : State} {r : PwcRegs} (f : PwcRegs → PwcRegs × Word)
    (h : s.pwc[inst]? = some r) : onPwc inst s f = .next ((s.setPwc inst (f r).1).answer .ok (f r).2) := by
  simp [onPwc, h]

theorem onPwc_none {inst : Nat} {s : State} (f : PwcRegs → PwcRegs × Word)
    (h : s.pwc.length ≤ inst) : onPwc inst s f = .next (s.answer .errInst 0) := by
  simp [onPwc, h]

theorem onNec_some {inst : Nat} {s : State} {r : NecRegs} (f : NecRegs → NecRegs × Word)
    (h : s.nec[inst]? = some r) : onNec inst s f = .next ((s.setNec inst (f r).1).answer .ok (f r).2) := by
  simp [onNec, h]

theorem onNec_none {inst : Nat} {s : State} (f : NecRegs → NecRegs × Word)
    (h : s.nec.length ≤ inst) : onNec inst s f = .next (s.answer .errInst 0) := by
  simp [onNec, h]

theorem onNv_some {inst : Nat} {s : State} {r : NvRegs} (f : NvRegs → NvRegs × Word)
    (h : s.nv[inst]? = some r) : onNv inst s f = .next ((s.setNv inst (f r).1).answer .ok (f r).2) := by
  simp [onNv, h]

theorem onNv_none {inst : Nat} {s : State} (f : NvRegs → NvRegs × Word)
    (h : s.nv.length ≤ inst) : onNv inst s f = .next (s.answer .errInst 0) := by
  simp [onNv, h]

theorem onZx_some {inst : Nat} {s : State} {r : ZxRegs} (f : ZxRegs → ZxRegs × Word)
    (h : s.zx[inst]? = some r) : onZx inst s f = .next ((s.setZx inst (f r).1).answer .ok (f r).2) := by
  simp [onZx, h]

theorem onZx_none {inst : Nat} {s : State} (f : ZxRegs → ZxRegs × Word)
    (h : s.zx.length ≤ inst) : onZx inst s f = .next (s.answer .errInst 0) := by
  simp [onZx, h]

theorem onCt_some {inst : Nat} {s : State} {r : CtRegs} (f : CtRegs → CtRegs × Word)
    (h : s.ct[inst]? = some r) : onCt inst s f = .next ((s.setCt inst (f r).1).answer .ok (f r).2) := by
  simp [onCt, h]

theorem onCt_none {inst : Nat} {s : State} (f : CtRegs → CtRegs × Word)
    (h : s.ct.length ≤ inst) : onCt inst s f = .next (s.answer .errInst 0) := by
  simp [onCt, h]

theorem readCt_some {inst : Nat} {s : State} {r : CtRegs} (f : CtRegs → Word)
    (h : s.ct[inst]? = some r) : readCt inst s f = .next (s.answer .ok (f r)) := by
  simp [readCt, h]

theorem readCt_none {inst : Nat} {s : State} (f : CtRegs → Word)
    (h : s.ct.length ≤ inst) : readCt inst s f = .next (s.answer .errInst 0) := by
  simp [readCt, h]

theorem readTwoCt_some {inst instb : Nat} {s : State} {x y : CtRegs} (f : CtRegs → CtRegs → Word)
    (hx : s.ct[inst]? = some x) (hy : s.ct[instb]? = some y) :
    readTwoCt inst instb s f = .next (s.answer .ok (f x y)) := by
  simp [readTwoCt, hx, hy]

theorem readTwoCt_none {inst instb : Nat} {s : State} (f : CtRegs → CtRegs → Word)
    (h : s.ct.length ≤ inst ∨ s.ct.length ≤ instb) :
    readTwoCt inst instb s f = .next (s.answer .errInst 0) := by
  unfold readTwoCt
  rcases h with h | h
  · simp [h]
  · cases s.ct[inst]? <;> simp [h]

/-- An index names an element or is past the end. -/
theorem getElem?_cases {α : Type} (l : List α) (i : Nat) :
    (∃ r, l[i]? = some r) ∨ l.length ≤ i := by
  rcases Nat.lt_or_ge i l.length with h | h
  · exact .inl ⟨l[i], List.getElem?_eq_getElem h⟩
  · exact .inr h

/-- Fetching takes the command in flight, or else the host's next one. -/
theorem fetchCommand_busy {s : State} {c : Command} {n : Nat} (h : s.port = .busy c n) :
    fetchCommand s = some (c, { s with port := .idle }) := by
  simp [fetchCommand, h]

theorem fetchCommand_pending {s : State} {c : Command} {cs : List Command}
    (hp : ∀ c n, s.port ≠ .busy c n) (h : s.pending = c :: cs) :
    fetchCommand s = some (c, { s with port := .idle, pending := cs }) := by
  unfold fetchCommand
  split
  · exact absurd ‹_› (hp _ _)
  · simp [h]

theorem fetchCommand_none {s : State} (hp : ∀ c n, s.port ≠ .busy c n) (h : s.pending = []) :
    fetchCommand s = none := by
  unfold fetchCommand
  split
  · exact absurd ‹_› (hp _ _)
  · simp [h]

end Sys2Proof.Machine
end

