-- ==== Sys2Proof/Laws/PerInstr.lean ====
section
/-! SUPPORT. Per constructor of Instr: the header its encoding carries. -/

namespace Sys2Proof

/-- OPC of each command (30_encoding.md R84). -/
def Instr.opcode : Instr → Nat
  | .pwcSetwin _ _ _ => 0x01
  | .pwcClassify _ _ => 0x02
  | .necInit _ => 0x04
  | .necEdge _ _ => 0x05
  | .necCheck _ => 0x06
  | .necCheckext _ => 0x07
  | .nvInit _ => 0x08
  | .nvEdge _ _ _ => 0x09
  | .nvIdle _ _ => 0x0A
  | .zxInit _ _ _ => 0x0C
  | .zxFeed _ _ _ => 0x0D
  | .ctInit _ => 0x10
  | .ctUpdate _ _ => 0x11
  | .ctIsvalid _ => 0x12
  | .ctIsrotating _ _ _ => 0x13
  | .ctCycleus _ => 0x14
  | .ctSmoothus _ => 0x15
  | .ctSpeedclose _ _ _ => 0x16
  | .ctAvgclose _ _ _ => 0x17
  | .regRd _ _ => 0x1E
  | .regWr _ _ _ => 0x1F

/-- The fields of a header made of fields in range (R81). -/
theorem header_fields {opc instb inst : Nat} (ho : opc < 32) (hb : instb < 16) (hi : inst < 16) (a b : Word) :
    (Command.mk (header opc instb inst) a b).opc = opc ∧ (Command.mk (header opc instb inst) a b).rsv = 0 ∧
    (Command.mk (header opc instb inst) a b).instb = instb ∧
    (Command.mk (header opc instb inst) a b).inst = inst := by
  simp only [Command.opc, Command.rsv, Command.instb, Command.inst, header, BitVec.extractLsb'_toNat,
    BitVec.toNat_ofNat, Nat.shiftRight_eq_div_pow]
  omega

namespace Laws.EncodedHeader

/-- A well-formed instruction's encoding carries its opcode and zeros in RSV. -/
def Statement (i : Instr) : Prop := i.wf = true → (encode i).opc = i.opcode ∧ (encode i).rsv = 0

theorem of_fields {opc instb inst : Nat} (ho : opc < 32) (hb : instb < 16) (hi : inst < 16) (a b : Word) :
    (Command.mk (header opc instb inst) a b).opc = opc ∧ (Command.mk (header opc instb inst) a b).rsv = 0 :=
  ⟨(header_fields ho hb hi a b).1, (header_fields ho hb hi a b).2.1⟩

theorem pwcSetwin (inst : Nat) (a b : Word) : Statement (.pwcSetwin inst a b) := fun h =>
  of_fields (by decide) (by decide) (of_decide_eq_true h) a b
theorem pwcClassify (inst : Nat) (a : Word) : Statement (.pwcClassify inst a) := fun h =>
  of_fields (by decide) (by decide) (of_decide_eq_true h) a 0
theorem necInit (inst : Nat) : Statement (.necInit inst) := fun h =>
  of_fields (by decide) (by decide) (of_decide_eq_true h) 0 0
theorem necEdge (inst : Nat) (a : Word) : Statement (.necEdge inst a) := fun h =>
  of_fields (by decide) (by decide) (of_decide_eq_true h) a 0
theorem necCheck (a : Word) : Statement (.necCheck a) := fun _ =>
  of_fields (by decide) (by decide) (by decide) a 0
theorem necCheckext (a : Word) : Statement (.necCheckext a) := fun _ =>
  of_fields (by decide) (by decide) (by decide) a 0
theorem nvInit (inst : Nat) : Statement (.nvInit inst) := fun h =>
  of_fields (by decide) (by decide) (of_decide_eq_true h) 0 0
theorem nvEdge (inst : Nat) (a : Word) (level : Bool) : Statement (.nvEdge inst a level) := fun h =>
  of_fields (by decide) (by decide) (of_decide_eq_true h) a (levelWord level)
theorem nvIdle (inst : Nat) (a : Word) : Statement (.nvIdle inst a) := fun h =>
  of_fields (by decide) (by decide) (of_decide_eq_true h) a 0
theorem zxInit (inst : Nat) (a b : Word) : Statement (.zxInit inst a b) := fun h =>
  of_fields (by decide) (by decide) (of_decide_eq_true h) a b
theorem zxFeed (inst : Nat) (a b : Word) : Statement (.zxFeed inst a b) := fun h =>
  of_fields (by decide) (by decide) (of_decide_eq_true h) a b
theorem ctInit (inst : Nat) : Statement (.ctInit inst) := fun h =>
  of_fields (by decide) (by decide) (of_decide_eq_true h) 0 0
theorem ctUpdate (inst : Nat) (a : Word) : Statement (.ctUpdate inst a) := fun h =>
  of_fields (by decide) (by decide) (of_decide_eq_true h) a 0
theorem ctIsvalid (inst : Nat) : Statement (.ctIsvalid inst) := fun h =>
  of_fields (by decide) (by decide) (of_decide_eq_true h) 0 0
theorem ctIsrotating (inst : Nat) (a b : Word) : Statement (.ctIsrotating inst a b) := fun h =>
  of_fields (by decide) (by decide) (of_decide_eq_true h) a b
theorem ctCycleus (inst : Nat) : Statement (.ctCycleus inst) := fun h =>
  of_fields (by decide) (by decide) (of_decide_eq_true h) 0 0
theorem ctSmoothus (inst : Nat) : Statement (.ctSmoothus inst) := fun h =>
  of_fields (by decide) (by decide) (of_decide_eq_true h) 0 0
theorem ctSpeedclose (inst instb : Nat) (a : Word) : Statement (.ctSpeedclose inst instb a) := fun h => by
  simp only [Instr.wf, Bool.and_eq_true, decide_eq_true_eq] at h
  exact of_fields (by decide) h.2 h.1 a 0
theorem ctAvgclose (inst instb : Nat) (a : Word) : Statement (.ctAvgclose inst instb a) := fun h => by
  simp only [Instr.wf, Bool.and_eq_true, decide_eq_true_eq] at h
  exact of_fields (by decide) h.2 h.1 a 0
theorem regRd (inst : Nat) (a : Word) : Statement (.regRd inst a) := fun h =>
  of_fields (by decide) (by decide) (of_decide_eq_true h) a 0
theorem regWr (inst : Nat) (a b : Word) : Statement (.regWr inst a b) := fun h =>
  of_fields (by decide) (by decide) (of_decide_eq_true h) a b

end Laws.EncodedHeader
end Sys2Proof
end

