-- ==== Sys2Proof/Laws/RegMap.lean ====
section
/-! SUPPORT. The register map: its rows have distinct addresses, and a row reads exactly where its block has the instance. -/

namespace Sys2Proof.Machine

theorem Reg.mem_all (g : Reg) : g ∈ Reg.all := by cases g <;> decide

theorem Reg.all_pairwise_address : Reg.all.Pairwise fun g h => g.address ≠ h.address := by decide

theorem lookupReg_address (g : Reg) : lookupReg g.address = some g := by cases g <;> decide

@[simp] theorem State.setPwc_count (s : State) (i : Nat) (r : PwcRegs) (b : Block) :
    (s.setPwc i r).count b = s.count b := by cases b <;> simp [State.count]

@[simp] theorem State.setNec_count (s : State) (i : Nat) (r : NecRegs) (b : Block) :
    (s.setNec i r).count b = s.count b := by cases b <;> simp [State.count]

@[simp] theorem State.setNv_count (s : State) (i : Nat) (r : NvRegs) (b : Block) :
    (s.setNv i r).count b = s.count b := by cases b <;> simp [State.count]

@[simp] theorem State.setZx_count (s : State) (i : Nat) (r : ZxRegs) (b : Block) :
    (s.setZx i r).count b = s.count b := by cases b <;> simp [State.count]

@[simp] theorem State.setCt_count (s : State) (i : Nat) (r : CtRegs) (b : Block) :
    (s.setCt i r).count b = s.count b := by cases b <;> simp [State.count]

/-- A row has no value to read exactly where its block has no such instance (R230). -/
theorem State.readReg_eq_none_iff (s : State) (g : Reg) (inst : Nat) :
    s.readReg g inst = none ↔ s.count g.block ≤ inst := by
  cases g <;> simp [State.readReg, State.count, Reg.block]

/-- A write effect changes no number of instances. -/
@[simp] theorem State.writeReg_count (s : State) (g : Reg) (inst : Nat) (b : Word) (k : Block) :
    (s.writeReg g inst b).count k = s.count k := by
  cases g <;> cases k <;> simp [State.writeReg, State.count]

@[simp] theorem State.writeReg_params (s : State) (g : Reg) (inst : Nat) (b : Word) :
    (s.writeReg g inst b).params = s.params := by cases g <;> rfl

@[simp] theorem State.writeReg_port (s : State) (g : Reg) (inst : Nat) (b : Word) :
    (s.writeReg g inst b).port = s.port := by cases g <;> rfl

@[simp] theorem State.writeReg_pending (s : State) (g : Reg) (inst : Nat) (b : Word) :
    (s.writeReg g inst b).pending = s.pending := by cases g <;> rfl

end Sys2Proof.Machine
end

