-- ==== Sys2Proof/Tests/Slice0.lean ====
section
/-! SUPPORT. The model's own tests: well-formedness, decoding, one or two steps of each command on the examples of the spec's rules, and for each statement with hypotheses a concrete case that meets them. -/

namespace Sys2Proof.Tests

open Sys2Proof.Machine

/-! ### Helpers -/

/-- The state after one command. -/
def after (i : Instr) (s : State) : Option State :=
  match exec i s with
  | .next t => some t
  | .fault _ => none
  | .refused _ => none

/-- The response to one command. -/
def answerOf (i : Instr) (s : State) : Option Response :=
  (after i s).bind fun t => match t.port with | .answered r => some r | .idle => none | .busy _ _ => none

/-- A small block after reset: TW = 32, SW = 16, one instance each and two trackers, zero draws, no address check. -/
def base : State := State.resetWith ⟨32, 16, false⟩ ⟨1, 1, 1, 1, 2⟩ Draws.zero

/-- `base` with the given instances. -/
def withPwc (r : PwcRegs) : State := { base with pwc := [r] }
def withNec (r : NecRegs) : State := { base with nec := [r] }
def withNv (r : NvRegs) : State := { base with nv := [r] }
def withZx (r : ZxRegs) : State := { base with zx := [r] }
def withCt (r q : CtRegs) : State := { base with ct := [r, q] }

/-- A NEC instance with the reset configuration. -/
def nec (st : NecState) (idx : BitVec 6) (acc : Word) (prev : TimeReg) : NecRegs :=
  ⟨13500, 2250, 1120, 300, st, idx, acc, prev⟩

/-- A rising edge of `clk` at which the host does nothing but, maybe, take a response. -/
def quiet (rspReady : Bool) : Pins := ⟨false, false, ⟨0, 0, 0⟩, rspReady, 0, Draws.zero⟩

/-! ### Well-formedness: each check refuses an ill-formed term (30_encoding.md R81) -/

theorem test_wf_inst_max : Instr.wf (.pwcSetwin 15 0 0) = true := by decide
theorem test_wf_pwcSetwin : Instr.wf (.pwcSetwin 16 0 0) = false := by decide
theorem test_wf_pwcClassify : Instr.wf (.pwcClassify 16 0) = false := by decide
theorem test_wf_necInit : Instr.wf (.necInit 16) = false := by decide
theorem test_wf_necEdge : Instr.wf (.necEdge 16 0) = false := by decide
theorem test_wf_nvInit : Instr.wf (.nvInit 16) = false := by decide
theorem test_wf_nvEdge : Instr.wf (.nvEdge 16 0 true) = false := by decide
theorem test_wf_nvIdle : Instr.wf (.nvIdle 16 0) = false := by decide
theorem test_wf_zxInit : Instr.wf (.zxInit 16 0 0) = false := by decide
theorem test_wf_zxFeed : Instr.wf (.zxFeed 16 0 0) = false := by decide
theorem test_wf_ctInit : Instr.wf (.ctInit 16) = false := by decide
theorem test_wf_ctUpdate : Instr.wf (.ctUpdate 16 0) = false := by decide
theorem test_wf_ctIsvalid : Instr.wf (.ctIsvalid 16) = false := by decide
theorem test_wf_ctIsrotating : Instr.wf (.ctIsrotating 16 0 0) = false := by decide
theorem test_wf_ctCycleus : Instr.wf (.ctCycleus 16) = false := by decide
theorem test_wf_ctSmoothus : Instr.wf (.ctSmoothus 16) = false := by decide
theorem test_wf_ctSpeedclose_inst : Instr.wf (.ctSpeedclose 16 0 0) = false := by decide
theorem test_wf_ctSpeedclose_instb : Instr.wf (.ctSpeedclose 0 16 0) = false := by decide
theorem test_wf_ctAvgclose_inst : Instr.wf (.ctAvgclose 16 0 0) = false := by decide
theorem test_wf_ctAvgclose_instb : Instr.wf (.ctAvgclose 0 16 0) = false := by decide
theorem test_wf_regRd : Instr.wf (.regRd 16 0) = false := by decide
theorem test_wf_regWr : Instr.wf (.regWr 16 0 0) = false := by decide

/-! ### Decoding: a header written bit by bit from each pattern of R84, operands from R82 and R83 -/

theorem test_decode_pwcSetwin : decode ⟨0b0000100000001010, 1000, 100⟩ = .ok (.pwcSetwin 10 1000 100) := by decide
theorem test_decode_pwcClassify : decode ⟨0b0001000000000001, 2000, 9⟩ = .ok (.pwcClassify 1 2000) := by decide
theorem test_decode_necInit : decode ⟨0b0010000000000010, 8, 9⟩ = .ok (.necInit 2) := by decide
theorem test_decode_necEdge : decode ⟨0b0010100000000100, 14500, 9⟩ = .ok (.necEdge 4 14500) := by decide
theorem test_decode_necCheck : decode ⟨0b0011000000000000, 0xEF10FB04, 9⟩ = .ok (.necCheck 0xEF10FB04) := by decide
theorem test_decode_necCheckext : decode ⟨0b0011100000000000, 0xEF101234, 9⟩ = .ok (.necCheckext 0xEF101234) := by decide
theorem test_decode_nvInit : decode ⟨0b0100000000001000, 8, 9⟩ = .ok (.nvInit 8) := by decide
theorem test_decode_nvEdge_rise : decode ⟨0b0100100000000011, 16102, 1⟩ = .ok (.nvEdge 3 16102 true) := by decide
theorem test_decode_nvEdge_fall : decode ⟨0b0100100000000011, 16102, 2⟩ = .ok (.nvEdge 3 16102 false) := by decide
theorem test_decode_nvIdle : decode ⟨0b0101000000000101, 30000, 9⟩ = .ok (.nvIdle 5 30000) := by decide
theorem test_decode_zxInit : decode ⟨0b0110000000000110, 0, 10⟩ = .ok (.zxInit 6 0 10) := by decide
theorem test_decode_zxFeed : decode ⟨0b0110100000000111, 10, 0xFFFFFFF6⟩ = .ok (.zxFeed 7 10 0xFFFFFFF6) := by decide
theorem test_decode_ctInit : decode ⟨0b1000000000001001, 8, 9⟩ = .ok (.ctInit 9) := by decide
theorem test_decode_ctUpdate : decode ⟨0b1000100000001011, 1100, 9⟩ = .ok (.ctUpdate 11 1100) := by decide
theorem test_decode_ctIsvalid : decode ⟨0b1001000000001100, 8, 9⟩ = .ok (.ctIsvalid 12) := by decide
theorem test_decode_ctIsrotating : decode ⟨0b1001100000001101, 1500, 500⟩ = .ok (.ctIsrotating 13 1500 500) := by decide
theorem test_decode_ctCycleus : decode ⟨0b1010000000001110, 8, 9⟩ = .ok (.ctCycleus 14) := by decide
theorem test_decode_ctSmoothus : decode ⟨0b1010100000001111, 8, 9⟩ = .ok (.ctSmoothus 15) := by decide
theorem test_decode_ctSpeedclose : decode ⟨0b1011000000100001, 10, 9⟩ = .ok (.ctSpeedclose 1 2 10) := by decide
theorem test_decode_ctAvgclose : decode ⟨0b1011100010000100, 10, 9⟩ = .ok (.ctAvgclose 4 8 10) := by decide
theorem test_decode_regRd : decode ⟨0b1111000000000000, 0x103, 9⟩ = .ok (.regRd 0 0x103) := by decide
theorem test_decode_regWr : decode ⟨0b1111100000000001, 0x202, 3000⟩ = .ok (.regWr 1 0x202 3000) := by decide

theorem test_decode_reserved_opcode : decode ⟨0b0101100000000000, 0, 0⟩ = .error .reservedOpcode := by decide
theorem test_decode_rsv : decode ⟨0b0001010000000000, 0, 0⟩ = .error .reservedBits := by decide
theorem test_decode_instb : decode ⟨0b0001000000010000, 0, 0⟩ = .error .instbNonzero := by decide
theorem test_decode_validator_inst : decode ⟨0b0011000000000001, 0, 0⟩ = .error .instNonzero := by decide

/-- The table's numbering: the header is bits 15:0, A bits 47:16, B bits 79:48 (log 5). -/
theorem test_tableWord :
    decodeTableWord 80 (0x0801 + 1000 * 2 ^ 16 + 100 * 2 ^ 48) = some (.pwcSetwin 1 1000 100) := by decide

/-- A table word placed after reset is performed by the very next step: `reg.rd 0, nec.TOL` reads 300 (R230's example). -/
theorem test_withFetchWord_step :
    (match step (State.reset.withFetchWord 80 (0xF000 + 0x103 * 2 ^ 16)) with
     | .next t => some t.port
     | .fault _ => none
     | .refused _ => none) = some (.answered ⟨.ok, 300⟩) := by decide

/-- A reserved header answers ERR_OPC (R85). -/
theorem test_reserved_header_step :
    (match step (State.reset.withFetchWord 16 0) with
     | .next t => some t.port
     | .fault _ => none
     | .refused _ => none) = some (.answered ⟨.errOpc, 0⟩) := by decide

/-! ### One step of each command, on the examples and corner cases of its rule -/

/-- R100's example. -/
theorem test_pwcSetwin :
    (after (.pwcSetwin 0 1000 100) base).map (·.pwc) = some [⟨900, 1100, 0⟩] := by decide

/-- R102's example. -/
theorem test_pwcClassify_match :
    (after (.pwcClassify 0 2000) (withPwc ⟨900, 1100, 1000⟩)).map (fun t => (t.port, t.pwc)) =
      some (.answered ⟨.ok, 1⟩, [⟨900, 1100, 2000⟩]) := by decide

/-- One past the upper end, across a wrap of the counter: a miss that still moves PREV (R102, R104). -/
theorem test_pwcClassify_miss_wraps :
    (after (.pwcClassify 0 101) (withPwc ⟨900, 1100, 0xFFFFFC18⟩)).map (fun t => (t.port, t.pwc)) =
      some (.answered ⟨.ok, 0⟩, [⟨900, 1100, 101⟩]) := by decide

/-- R120's example. -/
theorem test_necInit :
    (after (.necInit 0) (withNec (nec .collect 7 0x55 9))).map (·.nec) = some [nec .await 0 0 9] := by decide

/-- R122's example. -/
theorem test_necEdge_header :
    (after (.necEdge 0 14500) (withNec (nec .await 0 0 1000))).map (·.nec) =
      some [nec .collect 0 0 14500] := by decide

/-- The 32nd bit, a one, completes the frame: ACC is the code, BITIDX stays 32 (R126). -/
theorem test_necEdge_completes :
    (after (.necEdge 0 3250) (withNec (nec .collect 31 0x6F10FB04 1000))).map (fun t => (t.port, t.nec)) =
      some (.answered ⟨.ok, 0xEF10FB04⟩, [nec .await 32 0xEF10FB04 3250]) := by decide

/-- R130's example. -/
theorem test_necCheck : answerOf (.necCheck 0xEF10FB04) base = some ⟨.ok, 1⟩ := by decide

/-- A bad address byte fails only where the address bytes are checked (R130). -/
theorem test_necCheck_address :
    answerOf (.necCheck 0xEF101234) { base with params := ⟨32, 16, true⟩ } = some ⟨.ok, 0⟩ := by decide

/-- R131's examples. -/
theorem test_necCheckext_valid : answerOf (.necCheckext 0xEF101234) base = some ⟨.ok, 1⟩ := by decide
theorem test_necCheckext_invalid : answerOf (.necCheckext 0xEE101234) base = some ⟨.ok, 0⟩ := by decide

/-- R150's example. -/
theorem test_nvInit :
    (after (.nvInit 0) (withNv ⟨3000, .rightOpen, true, 4, 7, 8⟩)).map (·.nv) =
      some [⟨3000, .off, false, 0, 7, 8⟩] := by decide

/-- R151's example: the anchor. -/
theorem test_nvEdge_anchor :
    (after (.nvEdge 0 16102 true) (withNv ⟨0, .off, false, 0, 16000, 16000⟩)).map (·.nv) =
      some [⟨0, .off, true, 0, 16102, 16102⟩] := by decide

/-- 108 is past the anchor's window: the advance to POS 4 opens the right eye (R153, R154). -/
theorem test_nvEdge_advance :
    (after (.nvEdge 0 16108 true) (withNv ⟨0, .off, true, 3, 16000, 16000⟩)).map (fun t => (t.port, t.nv)) =
      some (.answered ⟨.ok, 2⟩, [⟨0, .rightOpen, true, 4, 16108, 16108⟩]) := by decide

/-- R157's example. -/
theorem test_nvIdle_fires :
    (after (.nvIdle 0 30000) (withNv ⟨3000, .leftOpen, true, 1, 24102, 24102⟩)).map (·.nv) =
      some [⟨3000, .off, false, 0, 24102, 24102⟩] := by decide

/-- `elapsed = IDLE` does not fire (R157). -/
theorem test_nvIdle_strict :
    answerOf (.nvIdle 0 27102) (withNv ⟨3000, .leftOpen, true, 1, 24102, 24102⟩) = some ⟨.ok, 1⟩ := by decide

/-- R180's example. -/
theorem test_zxInit : (after (.zxInit 0 0 10) (withZx ⟨3, 4, 5⟩)).map (·.zx) = some [⟨0, 10, 5⟩] := by decide

/-- R182's example; −10 is 0xFFF6 in 16 bits. -/
theorem test_zxFeed_midpoint :
    (after (.zxFeed 0 10 0xFFFFFFF6) (withZx ⟨0, 10, 0⟩)).map (fun t => (t.port, t.zx)) =
      some (.answered ⟨.ok, 1⟩, [⟨10, 0xFFF6, 5⟩]) := by decide

/-- From 5 to 0 is no crossing: zero is non-negative (R189). -/
theorem test_zxFeed_zero :
    (after (.zxFeed 0 10 0) (withZx ⟨0, 5, 77⟩)).map (fun t => (t.port, t.zx)) =
      some (.answered ⟨.ok, 0⟩, [⟨10, 0, 77⟩]) := by decide

/-- R200's example. -/
theorem test_ctInit :
    (after (.ctInit 1) (withCt ⟨4, 1, 2, 3⟩ ⟨4, 100, 5, 6⟩)).map (·.ct) = some [⟨4, 1, 2, 3⟩, ⟨4, 0, 5, 6⟩] := by decide

/-- R202's example: the second mark. -/
theorem test_ctUpdate_second :
    (after (.ctUpdate 0 1100) (withCt ⟨4, 0xFFFFFFFF, 1000, 9⟩ ⟨0, 0, 0, 0⟩)).map (·.ct) =
      some [⟨4, 100, 1100, 1600⟩, ⟨0, 0, 0, 0⟩] := by decide

/-- A running mark: 1600 + 132 − 100 (R205). -/
theorem test_ctUpdate_running :
    (after (.ctUpdate 0 1232) (withCt ⟨4, 100, 1100, 1600⟩ ⟨0, 0, 0, 0⟩)).map (·.ct) =
      some [⟨4, 132, 1232, 1632⟩, ⟨0, 0, 0, 0⟩] := by decide

/-- R208's example, and OneSample. -/
theorem test_ctIsvalid : answerOf (.ctIsvalid 0) (withCt ⟨4, 100, 0, 0⟩ ⟨0, 0, 0, 0⟩) = some ⟨.ok, 1⟩ := by decide
theorem test_ctIsvalid_oneSample :
    answerOf (.ctIsvalid 0) (withCt ⟨4, 0xFFFFFFFF, 0, 0⟩ ⟨0, 0, 0, 0⟩) = some ⟨.ok, 0⟩ := by decide

/-- R209's examples. -/
theorem test_ctIsrotating :
    answerOf (.ctIsrotating 0 1500 500) (withCt ⟨4, 100, 1100, 0⟩ ⟨0, 0, 0, 0⟩) = some ⟨.ok, 1⟩ := by decide
theorem test_ctIsrotating_strict :
    answerOf (.ctIsrotating 0 1600 500) (withCt ⟨4, 100, 1100, 0⟩ ⟨0, 0, 0, 0⟩) = some ⟨.ok, 0⟩ := by decide

/-- R211: 100 Running, −1 in OneSample. -/
theorem test_ctCycleus : answerOf (.ctCycleus 0) (withCt ⟨4, 100, 0, 0⟩ ⟨0, 0, 0, 0⟩) = some ⟨.ok, 100⟩ := by decide
theorem test_ctCycleus_oneSample :
    answerOf (.ctCycleus 0) (withCt ⟨4, 0xFFFFFFFF, 0, 0⟩ ⟨0, 0, 0, 0⟩) = some ⟨.ok, 0xFFFFFFFF⟩ := by decide

/-- R212's example. -/
theorem test_ctSmoothus : answerOf (.ctSmoothus 0) (withCt ⟨4, 100, 0, 1600⟩ ⟨0, 0, 0, 0⟩) = some ⟨.ok, 100⟩ := by decide

/-- R214's examples. -/
theorem test_ctSpeedclose :
    answerOf (.ctSpeedclose 0 1 10) (withCt ⟨0, 100, 0, 0⟩ ⟨0, 110, 0, 0⟩) = some ⟨.ok, 1⟩ := by decide
theorem test_ctSpeedclose_not :
    answerOf (.ctSpeedclose 0 1 11) (withCt ⟨0, 100, 0, 0⟩ ⟨0, 110, 0, 0⟩) = some ⟨.ok, 0⟩ := by decide

/-- R215's example. -/
theorem test_ctAvgclose :
    answerOf (.ctAvgclose 0 1 10) (withCt ⟨4, 100, 0, 1600⟩ ⟨5, 110, 0, 3520⟩) = some ⟨.ok, 1⟩ := by decide

/-- The address is checked before the instance (R242). -/
theorem test_regRd_order : answerOf (.regRd 9 0x1103) base = some ⟨.errReg, 0⟩ := by decide

/-- SMOOTH_HI is the sign extension's upper word (R62). -/
theorem test_regRd_smoothHi :
    answerOf (.regRd 0 0x413) (withCt ⟨4, 0, 0, 0x7FFFFFFFFFFF⟩ ⟨0, 0, 0, 0⟩) = some ⟨.ok, 0xFFFFFFFF⟩ := by decide

/-- R232's example. -/
theorem test_regWr : (after (.regWr 0 0x202 3000) base).map (·.nv) = some [⟨3000, .off, false, 0, 0, 0⟩] := by decide

/-- A state field is read-only (R62). -/
theorem test_regWr_ro : answerOf (.regWr 0 0x112 1) base = some ⟨.errRo, 0⟩ := by decide

/-! ### Witnesses: each statement's hypotheses, met together -/

theorem witness_DecodeEncodeRoundTrip :
    Instr.wf (.ctAvgclose 15 15 7) = true ∧ Instr.wf (.pwcSetwin 15 1 2) = true ∧ Instr.wf (.nvEdge 0 1 true) = true := by
  decide

theorem witness_DecodedHeaderReencodes : decode ⟨0b1011100011111111, 7, 0⟩ = .ok (.ctAvgclose 15 15 7) := by decide

/-- A header for each clause of `illegalHeader`: RSV, a reserved OPC, INSTB, INST. -/
theorem witness_IllegalHeadersRaiseErrOpc :
    illegalHeader 0x0900 ∧ illegalHeader 0xE800 ∧ illegalHeader 0x08F0 ∧ illegalHeader 0x380F ∧ ¬ illegalHeader 0xB8FF := by
  unfold illegalHeader; decide

/-- A command in flight; a command waiting while a response is held; nothing to do; an illegal header. -/
theorem witness_StepRunsTheNextCommand :
    decode ⟨0x2000, 0, 0⟩ = .ok (.necInit 0) ∧
    (State.port { base with port := .busy ⟨0x2000, 0, 0⟩ 3 } = .busy ⟨0x2000, 0, 0⟩ 3) ∧
    (∀ d n, State.port { base with port := .answered ⟨.ok, 1⟩, pending := [⟨0x2000, 0, 0⟩] } ≠ .busy d n) ∧
    (State.pending { base with port := .answered ⟨.ok, 1⟩, pending := [⟨0x2000, 0, 0⟩] } = ⟨0x2000, 0, 0⟩ :: []) ∧
    (∀ d n, base.port ≠ .busy d n) ∧ base.pending = [] ∧ decode ⟨0, 0, 0⟩ = .error .reservedOpcode :=
  ⟨by decide, rfl, fun _ _ h => Port.noConfusion h, rfl, fun _ _ h => Port.noConfusion h, rfl, by decide⟩

theorem witness_ErrorsChangeNoState :
    ∃ t, runCommand ⟨0x2001, 0, 0⟩ base = .next t ∧ t.port = .answered ⟨.errInst, 0⟩ ∧ (Status.errInst ≠ Status.ok) ∧
      (quiet true).rst = false ∧ (quiet true).rspReady = true :=
  ⟨_, rfl, rfl, by decide, rfl, rfl⟩

/-- A reset with a command in flight, and another state it resets to the same. -/
theorem witness_ResetEdgeClearsEverything :
    ({ quiet true with rst := true } : Pins).rst = true ∧
    (State.params { withPwc ⟨1, 2, 3⟩ with port := .busy ⟨0x2000, 0, 0⟩ 3 } = base.params) ∧
    (State.counts { withPwc ⟨1, 2, 3⟩ with port := .busy ⟨0x2000, 0, 0⟩ 3 } = base.counts) ∧
    (State.pending { withPwc ⟨1, 2, 3⟩ with port := .busy ⟨0x2000, 0, 0⟩ 3 } = base.pending) := by
  decide

theorem witness_ResponseHeldUntilTaken :
    (quiet false).rst = false ∧ State.port { base with port := .answered ⟨.ok, 7⟩ } = .answered ⟨.ok, 7⟩ := by decide

/-- A command accepted with LAT = 3 from a state whose `pending` is empty. -/
theorem witness_LatencyThenStepEffect :
    base.port = .idle ∧ base.pending = [] ∧
    (⟨false, true, ⟨0x0800, 1000, 100⟩, false, 2, Draws.zero⟩ : Pins).cmdValid = true ∧
    (∀ y ∈ List.replicate 3 (quiet true), y.rst = false) ∧ (List.replicate 3 (quiet true)).length = 2 + 1 ∧
    ∃ t, step { base with pending := [⟨0x0800, 1000, 100⟩] } = .next t :=
  ⟨rfl, rfl, rfl, by simp [quiet], rfl, _, rfl⟩

/-- The last instance of each block, and the widest pattern of a 16-bit field. -/
theorem witness_ResetValues :
    (0 < Counts.default.pwc ∧ 0 < Counts.default.nec ∧ 0 < Counts.default.nv ∧ 0 < Counts.default.zx ∧
      1 < Counts.default.ct) ∧ (0xFFFF : BitVec 32).toNat < 2 ^ 16 := by decide

/-- Both ends of R7's ranges. -/
theorem witness_EveryResetSatisfiesInv :
    Params.legal ⟨16, 46, true⟩ = true ∧ Params.legal ⟨32, 2, false⟩ = true ∧ Counts.legal ⟨1, 1, 1, 1, 2⟩ = true ∧
      Counts.legal ⟨16, 16, 16, 16, 16⟩ = true := by decide

theorem witness_StepKeepsInv :
    (withNec (nec .collect 31 0x6F10FB04 1000)).inv = true ∧
      ∃ t, step ((withNec (nec .collect 31 0x6F10FB04 1000)).present ⟨0x2800, 3250, 0⟩) = .next t ∧
        ((withNec (nec .collect 31 0x6F10FB04 1000)).present ⟨0x2800, 3250, 0⟩).inv = true :=
  ⟨by decide, _, rfl, by decide⟩

theorem witness_ClockEdgeKeepsInv :
    ({ base with port := .busy ⟨0x4800, 9, 1⟩ 0 } : State).inv = true ∧
      ∃ t, clockEdge (quiet true) { base with port := .busy ⟨0x4800, 9, 1⟩ 0 } = .next t :=
  ⟨by decide, _, rfl⟩

/-- The longest exact distance, across a wrap. -/
theorem witness_IntervalIsModularDistance :
    16 ≤ 32 ∧ 32 ≤ 32 ∧ 2 ^ 31 - 1 < 2 ^ (32 - 1) ∧
      interval 32 (lowBits 32 ((0xFFFFFFFF : TimeReg) + BitVec.ofNat 32 (2 ^ 31 - 1))) 0xFFFFFFFF = 2 ^ 31 - 1 := by
  decide

theorem witness_OnlyTheAddressedInstanceChanges :
    ∃ t, exec (.regWr 1 0x400 5) base = .next t ∧ writeTarget (.regWr 1 0x400 5) ≠ some (.ct, 0) ∧
      writeTarget (.regWr 1 0x400 5) ≠ some (.pwc, 1) ∧ writeTarget (.regWr 1 0x400 5) = some (.ct, 1) :=
  ⟨_, rfl, by decide, by decide, by decide⟩

/-- Two states that agree on the instance and differ elsewhere, for each block. -/
theorem witness_ResultDependsOnTheInstanceAlone :
    (withCt ⟨1, 2, 3, 4⟩ ⟨5, 6, 7, 8⟩).params = base.params ∧
      (∀ k ∈ [Block.pwc, .nec, .nv, .zx], sameInstance k 0 base (withCt ⟨1, 2, 3, 4⟩ ⟨5, 6, 7, 8⟩)) ∧
      (∀ inst, sameInstance .ct inst base (withPwc ⟨1, 2, 3⟩)) ∧
      (∀ i ∈ instanceCommands .nv 0 .nvIdle 9 8 true, after i base ≠ none) ∧
      (∀ i ∈ instanceCommands .ct 1 .ctE 9 8 true, after i base ≠ none) ∧
      after (.ctAvgclose 0 1 9) base ≠ none ∧ after (.necCheck 9) base ≠ none := by
  refine ⟨rfl, ?_, fun _ => rfl, ?_, ?_, ?_, ?_⟩ <;> try decide
  simp [sameInstance, withCt]

theorem witness_ReadersHaveNoSideEffect :
    ∃ t, exec (.ctAvgclose 0 1 10) (withCt ⟨4, 100, 0, 1600⟩ ⟨5, 110, 0, 3520⟩) = .next t ∧
      Instr.ctAvgclose 0 1 10 ∈ [Instr.regRd 0 10, .ctIsvalid 0, .ctIsrotating 0 10 0, .ctCycleus 0, .ctSmoothus 0,
        .ctSpeedclose 0 1 10, .ctAvgclose 0 1 10, .necCheck 10, .necCheckext 10] :=
  ⟨_, rfl, by decide⟩

/-- Header fields each command refuses. -/
theorem witness_rejectsFields :
    badOneInst 1 0 15 ∧ badOneInst 0 15 0 ∧ badNoInst 0 0 1 ∧ badTwoInst 7 15 15 ∧ ¬ badOneInst 0 0 15 ∧
      ¬ badTwoInst 0 15 15 := by unfold badOneInst badNoInst badTwoInst; decide

/-- An instance of each block, the last encodable index, and an index past each count: the hypotheses of every per-command statement. -/
theorem witness_instances :
    base.pwc[0]? = some ⟨0, 0, 0⟩ ∧ base.nec[0]? = some (nec .await 0 0 0) ∧
    base.nv[0]? = some ⟨0, .off, false, 0, 0, 0⟩ ∧ base.zx[0]? = some ⟨0, 0, 0⟩ ∧ base.ct[1]? = some ⟨0, 0, 0, 0⟩ ∧
    15 < 16 ∧ base.pwc.length ≤ 1 ∧ base.nec.length ≤ 1 ∧ base.nv.length ≤ 1 ∧ base.zx.length ≤ 1 ∧ base.ct.length ≤ 2 := by
  decide

/-- The largest valid pair. -/
theorem witness_PwcValidPairIsExact :
    base.params.legal = true ∧ 0 < base.pwc.length ∧ (uVal 32 (0x3FFFFFFF : Word) : Int) ≤ uVal 32 (0x40000000 : Word) ∧
      (uVal 32 (0x40000000 : Word) : Int) + uVal 32 (0x3FFFFFFF : Word) ≤ 2 ^ (32 - 1) - 1 ∧
      ∃ t, exec (.pwcSetwin 0 0x40000000 0x3FFFFFFF) base = .next t :=
  ⟨by decide, by decide, by decide, by decide, _, rfl⟩

theorem witness_PwcBoundaryProperty :
    (withPwc ⟨7, 8, 1000⟩).params.legal = true ∧ (withPwc ⟨7, 8, 1000⟩).pwc[0]? = some ⟨7, 8, 1000⟩ ∧
      uVal 32 (100 : Word) ≤ uVal 32 (100 : Word) ∧ uVal 32 (100 : Word) + uVal 32 (100 : Word) ≤ 2 ^ (32 - 1) - 1 := by
  decide

theorem witness_PwcResultNeedsOnlyTheLastEdge :
    (withPwc ⟨900, 1100, 5⟩).params = (withPwc ⟨900, 1100, 6⟩).params ∧
      (withPwc ⟨900, 1100, 5⟩).pwc[0]? = some ⟨900, 1100, 5⟩ ∧ (withPwc ⟨900, 1100, 6⟩).pwc[0]? = some ⟨900, 1100, 6⟩ := by
  decide

theorem witness_PwcZeroIntervalIsNoPulse :
    (withPwc ⟨0, 0, 5⟩).pwc[0]? = some ⟨0, 0, 5⟩ ∧ (withPwc ⟨0, 0, 5⟩).params.legal = true ∧
      uVal 32 (999 : Word) < uVal 32 (1000 : Word) ∧ uVal 32 (1000 : Word) + uVal 32 (999 : Word) ≤ 2 ^ (32 - 1) - 1 := by
  decide

/-- Each clause at a window's boundary: 13800 and 13801 for a header, 2550 a one, 1420 a zero, 1421 neither; BITIDX 30 and 31. -/
theorem witness_NecEdgeTransitions :
    interval 32 (lowBits 32 (13900 : Word)) 100 = 13800 ∧
    (nec .await 0 0 100).within base.params 13500 13800 ∧ ¬ (nec .await 0 0 100).within base.params 13500 13801 ∧
    (nec .collect 30 0 100).within base.params 2250 2550 ∧
    ¬ (nec .collect 30 0 100).within base.params 2250 1420 ∧ (nec .collect 30 0 100).within base.params 1120 1420 ∧
    ¬ (nec .collect 30 0 100).within base.params 2250 1421 ∧ ¬ (nec .collect 30 0 100).within base.params 1120 1421 ∧
    (nec .collect 30 0 100).bitIdx ≠ 31 ∧ (nec .collect 31 0 100).bitIdx = 31 ∧
    (withNec (nec .collect 31 0 100)).nec[0]? = some (nec .collect 31 0 100) := by
  unfold NecRegs.within; decide

theorem witness_NecTwoEqualEdgesResynchronise :
    (withNec (nec .collect 9 5 100)).nec[0]? = some (nec .collect 9 5 100) ∧
      uVal 32 (300 : TimeReg) < uVal 32 (13500 : TimeReg) ∧ uVal 32 (300 : TimeReg) < uVal 32 (2250 : TimeReg) ∧
      uVal 32 (300 : TimeReg) < uVal 32 (1120 : TimeReg) := by decide

theorem witness_NecCanonicalFrameDecodes :
    base.params.legal = true ∧ base.nec[0]? = some (nec .await 0 0 0) ∧ (0 : TimeReg) = lowBits 32 (0 : Word) ∧
      uVal 32 (13500 : TimeReg) < 2 ^ (32 - 1) ∧ uVal 32 (2250 : TimeReg) < 2 ^ (32 - 1) ∧
      uVal 32 (1120 : TimeReg) < 2 ^ (32 - 1) ∧
      (uVal 32 (300 : TimeReg) : Int) < |(uVal 32 (1120 : TimeReg) : Int) - (uVal 32 (2250 : TimeReg) : Int)| := by
  decide

/-- The aborting edge of 95_test_vectors.md's kind: 600 µs is in neither bit window. -/
theorem witness_NecAbortThenFrameDecodes :
    (withNec (nec .collect 9 5 100)).params.legal = true ∧
    (withNec (nec .collect 9 5 100)).nec[0]? = some (nec .collect 9 5 100) ∧
    interval 32 (lowBits 32 (700 : Word)) 100 = 600 ∧
    ¬ (nec .collect 9 5 100).within base.params 2250 600 ∧ ¬ (nec .collect 9 5 100).within base.params 1120 600 ∧
    uVal 32 (13500 : TimeReg) < 2 ^ (32 - 1) ∧ uVal 32 (2250 : TimeReg) < 2 ^ (32 - 1) ∧
    uVal 32 (1120 : TimeReg) < 2 ^ (32 - 1) ∧
    (uVal 32 (300 : TimeReg) : Int) < |(uVal 32 (1120 : TimeReg) : Int) - (uVal 32 (2250 : TimeReg) : Int)| := by
  unfold NecRegs.within; decide

/-- Two codes that differ in the address alone. -/
theorem witness_NecCheckextTestsTheCommandByte :
    (0xEF101234 : Word).extractLsb' 16 16 = (0xEF10FFFF : Word).extractLsb' 16 16 := by decide

theorem witness_NecCheckTestsThePlainConvention : base.params.necPlainAddrCheck = false := by decide

/-- Each clause at a boundary: distances 0, 96, 97, 107 and 108, synchronised and not, positions 0 and 6. -/
theorem witness_NvEdgeTransitions :
    interval 32 (lowBits 32 (100 : Word)) 100 = 0 ∧ interval 32 (lowBits 32 (196 : Word)) 100 = 96 ∧
    interval 32 (lowBits 32 (197 : Word)) 100 = 97 ∧ interval 32 (lowBits 32 (207 : Word)) 100 = 107 ∧
    interval 32 (lowBits 32 (208 : Word)) 100 = 108 ∧
    (withNv ⟨0, .off, false, 0, 100, 100⟩).nv[0]? = some ⟨0, .off, false, 0, 100, 100⟩ ∧
    (withNv ⟨0, .off, true, 6, 100, 100⟩).nv[0]? = some ⟨0, .off, true, 6, 100, 100⟩ ∧
    ((0, 1, .leftOpen, 1) : BitVec 3 × BitVec 3 × NvPhase × Word) ∈
      [(0, 1, NvPhase.leftOpen, 1), (1, 2, .off, 0), (2, 3, .off, 0), (3, 4, .rightOpen, 2),
       (4, 5, .rightOpen, 2), (5, 6, .off, 0), (6, 0, .off, 0), (7, 0, .off, 0)] := by
  decide

/-- Elapsed times one past IDLE and equal to it. -/
theorem witness_NvIdleTimesOut :
    (withNv ⟨3000, .leftOpen, true, 1, 0, 100⟩).nv[0]? = some ⟨3000, .leftOpen, true, 1, 0, 100⟩ ∧
      (uVal 32 (3000 : TimeReg) : Int) < interval 32 (lowBits 32 (3101 : Word)) 100 ∧
      interval 32 (lowBits 32 (3100 : Word)) 100 ≤ (uVal 32 (3000 : TimeReg) : Int) := by decide

/-- Shapes 1000 µs apart after an anchor at 100; gaps of 96 and 108 are plain, 97 is not. -/
theorem witness_NvCleanCycleGivesThePhases :
    (withNv ⟨0, .off, true, 0, 100, 100⟩).params.legal = true ∧
    (withNv ⟨0, .off, true, 0, 100, 100⟩).nv[0]? = some ⟨0, .off, true, 0, 100, 100⟩ ∧
    plainGap 32 1000 100 ∧ plainGap 32 2000 1000 ∧ plainGap 32 3000 (2000 + 44) ∧ plainGap 32 4000 (3000 + 69) ∧
    plainGap 32 196 100 ∧ plainGap 32 208 100 ∧ ¬ plainGap 32 197 100 := by
  unfold plainGap; decide

theorem witness_NvPremiseFreeStart :
    (withNv ⟨0, .rightOpen, true, 4, 100, 50⟩).params.legal = true ∧
    (withNv ⟨0, .rightOpen, true, 4, 100, 50⟩).nv[0]? = some ⟨0, .rightOpen, true, 4, 100, 50⟩ ∧
    interval 32 (101 : Word) 100 ≠ 0 ∧ interval 32 (100 : Word) 100 = 0 := by decide

theorem witness_ZxInitStoresThePair :
    base.params.sw ≤ 32 ∧ Params.legal ⟨30, 32, true⟩ = true ∧ Params.sw ⟨30, 32, true⟩ ≤ 32 := by decide

/-- A sample one bit wider than the operand word. -/
theorem witness_ZxEverySampleWidth :
    State.zx { withZx ⟨0, 10, 0⟩ with params := ⟨29, 33, true⟩ } = [⟨0, 10, 0⟩] ∧ Params.legal ⟨29, 33, true⟩ = true ∧
      32 < Params.sw ⟨29, 33, true⟩ ∧ ∃ u, exec (.zxInit 0 1 2) { withZx ⟨0, 10, 0⟩ with params := ⟨29, 33, true⟩ } = .next u :=
  ⟨rfl, by decide, by decide, _, rfl⟩

/-- The four sign patterns at the boundary: 0 and −1 (0xFFFF in 16 bits). -/
theorem witness_ZxFeedInterpolates :
    (withZx ⟨0, 0, 5⟩).zx[0]? = some ⟨0, 0, 5⟩ ∧ sVal 16 (0 : SampleReg) = 0 ∧ sVal 16 (0xFFFF : SampleReg) = -1 ∧
      sVal 16 (0xFFFF : Word) = -1 ∧ sVal 16 (0 : Word) = 0 ∧ base.params.sw ≤ 32 := by decide

theorem witness_ZxCrossingTimeLiesBetween :
    (withZx ⟨0, 10, 0⟩).params.legal = true ∧ (withZx ⟨0, 10, 0⟩).zx[0]? = some ⟨0, 10, 0⟩ ∧
      ∃ u, exec (.zxFeed 0 10 0xFFF6) (withZx ⟨0, 10, 0⟩) = .next u ∧ u.port = .answered ⟨.ok, 1⟩ :=
  ⟨by decide, rfl, _, rfl, by decide⟩

theorem witness_ZxEqualTimestamps :
    (withZx ⟨10, 10, 0⟩).params.legal = true ∧ (withZx ⟨10, 10, 0⟩).zx[0]? = some ⟨10, 10, 0⟩ ∧
      (10 : TimeReg) = lowBits 32 (10 : Word) ∧
      ∃ u, exec (.zxFeed 0 10 0xFFF6) (withZx ⟨10, 10, 0⟩) = .next u ∧ u.port = .answered ⟨.ok, 1⟩ :=
  ⟨by decide, rfl, by decide, _, rfl, by decide⟩

/-- The three stages: CYCLE 0, −1 and 1. -/
theorem witness_CtUpdateByLifecycle :
    (withCt ⟨4, 1, 2, 3⟩ ⟨0, 0, 0, 0⟩).ct[0]? = some ⟨4, 1, 2, 3⟩ ∧ sVal 32 (0 : TimeReg) = 0 ∧
      sVal 32 (0xFFFFFFFF : TimeReg) < 0 ∧ 0 < sVal 32 (1 : TimeReg) := by decide

/-- An unseen tracker, and running ones with intervals 0, −1 and 1. -/
theorem witness_CtStageAfterMark :
    base.params.legal = true ∧ base.ct[0]? = some ⟨0, 0, 0, 0⟩ ∧
      CtRegs.lifecycle base.params ⟨0, 0, 0, 0⟩ = .unseen ∧ CtRegs.lifecycle base.params ⟨4, 100, 50, 3⟩ ≠ .unseen ∧
      interval 32 (50 : Word) 50 = 0 ∧ interval 32 (49 : Word) 50 < 0 ∧ 0 < interval 32 (51 : Word) 50 ∧
      (∃ u, exec (.ctUpdate 0 50) base = .next u) ∧
      ∃ u, exec (.ctUpdate 0 49) (withCt ⟨4, 100, 50, 3⟩ ⟨0, 0, 0, 0⟩) = .next u :=
  ⟨by decide, rfl, by decide, by decide, by decide, by decide, by decide, ⟨_, rfl⟩, _, rfl⟩

/-- A second mark, and a running tracker at the fixed point, each with interval 100. -/
theorem witness_CtConstantIntervalIsFixedPoint :
    base.params.legal = true ∧ interval 32 (1100 : Word) 1000 = 100 ∧
      CtRegs.lifecycle base.params ⟨4, 0xFFFFFFFF, 1000, 9⟩ = .oneSample ∧
      CtRegs.lifecycle base.params ⟨4, 100, 1000, 1600⟩ = .running ∧ sVal (32 + 15) (1600 : SmoothReg) = 100 * 2 ^ 4 ∧
      (∃ u, exec (.ctUpdate 0 1100) (withCt ⟨4, 0xFFFFFFFF, 1000, 9⟩ ⟨0, 0, 0, 0⟩) = .next u) ∧
      ∃ u, exec (.ctUpdate 0 1100) (withCt ⟨4, 100, 1000, 1600⟩ ⟨0, 0, 0, 0⟩) = .next u :=
  ⟨by decide, by decide, by decide, by decide, by decide, ⟨_, rfl⟩, _, rfl⟩

/-- SMOOTH at each clause's boundary for n = 100, e = 4: 1599 below, 1600 and 1615 reading 100, 1616 above. -/
theorem witness_CtAverageMovesTowardsTheInterval :
    base.params.legal = true ∧ interval 32 (1100 : Word) 1000 = 100 ∧
      CtRegs.lifecycle base.params ⟨4, 90, 1000, 1599⟩ = .running ∧ sVal (32 + 15) (1599 : SmoothReg) < 100 * 2 ^ 4 ∧
      (sVal (32 + 15) (1600 : SmoothReg)).fdiv (2 ^ 4) = 100 ∧ (sVal (32 + 15) (1615 : SmoothReg)).fdiv (2 ^ 4) = 100 ∧
      (100 + 1) * 2 ^ 4 ≤ sVal (32 + 15) (1616 : SmoothReg) ∧
      ∃ u, exec (.ctUpdate 0 1100) (withCt ⟨4, 90, 1000, 1599⟩ ⟨0, 0, 0, 0⟩) = .next u :=
  ⟨by decide, by decide, by decide, by decide, by decide, by decide, by decide, _, rfl⟩

/-- A running tracker away from the fixed point, and the shortest and longest constant intervals. -/
theorem witness_CtAverageConverges :
    base.params.legal = true ∧
      (withCt ⟨4, 90, 1000, 5⟩ ⟨0, 0, 0, 0⟩).ct[0]? = some ⟨4, 90, 1000, 5⟩ ∧
      CtRegs.lifecycle base.params ⟨4, 90, 1000, 5⟩ = .running ∧ (1000 : TimeReg) = lowBits 32 (1000 : Word) ∧
      0 < 1 ∧ 1 < 2 ^ (32 - 1) ∧ 2 ^ 31 - 1 < 2 ^ (32 - 1) := by decide

/-- The value where R209 and R210 differ, elapsed −5 and threshold 0: the model answers 1 (log 17). At elapsed 0 it answers 0. -/
theorem witness_CtIsrotatingIsStrict :
    (withCt ⟨4, 100, 1100, 0⟩ ⟨0, 0, 0, 0⟩).ct[0]? = some ⟨4, 100, 1100, 0⟩ ∧
      interval 32 (lowBits 32 (1095 : Word)) 1100 = -5 ∧ uVal 32 (0 : Word) = 0 ∧
      answerOf (.ctIsrotating 0 1095 0) (withCt ⟨4, 100, 1100, 0⟩ ⟨0, 0, 0, 0⟩) = some ⟨.ok, 1⟩ ∧
      answerOf (.ctIsrotating 0 1100 0) (withCt ⟨4, 100, 1100, 0⟩ ⟨0, 0, 0, 0⟩) = some ⟨.ok, 0⟩ := by decide

/-- Two trackers; an INST, and an INSTB, past the count. -/
theorem witness_CtComparisonsAnswer :
    base.ct[0]? = some ⟨0, 0, 0, 0⟩ ∧ base.ct[1]? = some ⟨0, 0, 0, 0⟩ ∧
      (base.ct.length ≤ 2 ∨ base.ct.length ≤ 0) ∧ (base.ct.length ≤ 0 ∨ base.ct.length ≤ 2) := by decide

/-- A running pair of equal lengths; a reference in OneSample; |100 − 110|·11 beyond 100. -/
theorem witness_CtSpeedcloseProperties :
    CtRegs.lifecycle base.params ⟨0, 100, 0, 0⟩ = .running ∧ sVal 32 (100 : TimeReg) = 100 ∧
      CtRegs.lifecycle base.params ⟨0, 0xFFFFFFFF, 0, 0⟩ = .oneSample ∧
      sVal 32 (100 : TimeReg) < |sVal 32 (100 : TimeReg) - sVal 32 (110 : TimeReg)| * ((11 : Word).toNat : Int) := by
  decide

/-- The errors of REG_RD and REG_WR. No row: past the map, in a gap, a bit above A[11]; no instance; a read-only row. -/
theorem witness_RegWrWritesTheConfiguration :
    ¬ isRegister 0x500 ∧ ¬ isRegister 0x004 ∧ ¬ isRegister 0x1000 ∧ noSuchInstance base 0x000 1 ∧
      noSuchInstance base 0x413 2 ∧ isRegister 0x201 ∧ ¬ noSuchInstance base 0x201 0 ∧ (0x201 : Word) ∉ rwAddresses := by
  unfold isRegister noSuchInstance; refine ⟨?_, ?_, ?_, ?_, ?_, ?_, ?_, ?_⟩ <;> decide

theorem witness_RegWriteThenRead :
    base.params.legal = true ∧
      (∃ t, exec (.regWr 0 0x000 0x80000000) base = .next t ∧ t.port = .answered ⟨.ok, 0⟩) ∧
      (∃ t, exec (.regWr 1 0x400 16) base = .next t ∧ t.port = .answered ⟨.ok, 0⟩) ∧
      ∃ t, exec (.regWr 0 0x103 7) base = .next t ∧ t.port = .answered ⟨.ok, 0⟩ :=
  ⟨by decide, ⟨_, rfl, rfl⟩, ⟨_, rfl, rfl⟩, _, rfl, rfl⟩

end Sys2Proof.Tests
end

section
/-! PROOFS. The scope statements: what performing any command can do, the invariant of every step, and what a step is. -/

namespace Sys2Proof.Machine

/-! ### What performing a command can do -/

/-- What a command with write target `k` may make of the registers: leave them, or set the one register group that `k`
names, to registers that are well formed where the old ones were. -/
inductive Updates (s : State) : Option (Block × Nat) → State → Prop where
  | same (k : Option (Block × Nat)) : Updates s k s
  | pwc {inst : Nat} {r r' : PwcRegs} (hr : s.pwc[inst]? = some r)
      (ok : r.ok s.params = true → r'.ok s.params = true) : Updates s (some (.pwc, inst)) (s.setPwc inst r')
  | nec {inst : Nat} {r r' : NecRegs} (hr : s.nec[inst]? = some r)
      (ok : r.ok s.params = true → r'.ok s.params = true) : Updates s (some (.nec, inst)) (s.setNec inst r')
  | nv {inst : Nat} {r r' : NvRegs} (hr : s.nv[inst]? = some r)
      (ok : r.ok s.params = true → r'.ok s.params = true) : Updates s (some (.nv, inst)) (s.setNv inst r')
  | zx {inst : Nat} {r r' : ZxRegs} (hr : s.zx[inst]? = some r)
      (ok : r.ok s.params = true → r'.ok s.params = true) : Updates s (some (.zx, inst)) (s.setZx inst r')
  | ct {inst : Nat} {r r' : CtRegs} (hr : s.ct[inst]? = some r)
      (ok : r.ok s.params = true → r'.ok s.params = true) : Updates s (some (.ct, inst)) (s.setCt inst r')

/-- The two ways a command with write target `k` can end: an error with data 0 and nothing changed (R241), or OK after
an update of its target. -/
inductive Answers (s : State) (k : Option (Block × Nat)) : Result → Prop where
  | error {e : Status} (he : e ≠ .ok) : Answers s k (.next (s.answer e 0))
  | ok {u : State} (h : Updates s k u) (d : Word) : Answers s k (.next (u.answer .ok d))

theorem onPwc_answers {inst : Nat} {s : State} {f : PwcRegs → PwcRegs × Word}
    (hf : ∀ r, r.ok s.params = true → (f r).1.ok s.params = true) :
    Answers s (some (.pwc, inst)) (onPwc inst s f) := by
  rcases getElem?_cases s.pwc inst with ⟨r, hr⟩ | hlen
  · rw [onPwc_some f hr]; exact .ok (.pwc hr (hf r)) _
  · rw [onPwc_none f hlen]; exact .error (by decide)

theorem onNec_answers {inst : Nat} {s : State} {f : NecRegs → NecRegs × Word}
    (hf : ∀ r, r.ok s.params = true → (f r).1.ok s.params = true) :
    Answers s (some (.nec, inst)) (onNec inst s f) := by
  rcases getElem?_cases s.nec inst with ⟨r, hr⟩ | hlen
  · rw [onNec_some f hr]; exact .ok (.nec hr (hf r)) _
  · rw [onNec_none f hlen]; exact .error (by decide)

theorem onNv_answers {inst : Nat} {s : State} {f : NvRegs → NvRegs × Word}
    (hf : ∀ r, r.ok s.params = true → (f r).1.ok s.params = true) :
    Answers s (some (.nv, inst)) (onNv inst s f) := by
  rcases getElem?_cases s.nv inst with ⟨r, hr⟩ | hlen
  · rw [onNv_some f hr]; exact .ok (.nv hr (hf r)) _
  · rw [onNv_none f hlen]; exact .error (by decide)

theorem onZx_answers {inst : Nat} {s : State} {f : ZxRegs → ZxRegs × Word}
    (hf : ∀ r, r.ok s.params = true → (f r).1.ok s.params = true) :
    Answers s (some (.zx, inst)) (onZx inst s f) := by
  rcases getElem?_cases s.zx inst with ⟨r, hr⟩ | hlen
  · rw [onZx_some f hr]; exact .ok (.zx hr (hf r)) _
  · rw [onZx_none f hlen]; exact .error (by decide)

theorem onCt_answers {inst : Nat} {s : State} {f : CtRegs → CtRegs × Word}
    (hf : ∀ r, r.ok s.params = true → (f r).1.ok s.params = true) :
    Answers s (some (.ct, inst)) (onCt inst s f) := by
  rcases getElem?_cases s.ct inst with ⟨r, hr⟩ | hlen
  · rw [onCt_some f hr]; exact .ok (.ct hr (hf r)) _
  · rw [onCt_none f hlen]; exact .error (by decide)

theorem readCt_answers (inst : Nat) (s : State) (f : CtRegs → Word) : Answers s none (readCt inst s f) := by
  rcases getElem?_cases s.ct inst with ⟨r, hr⟩ | hlen
  · rw [readCt_some f hr]; exact .ok (.same _) _
  · rw [readCt_none f hlen]; exact .error (by decide)

theorem readTwoCt_answers (inst instb : Nat) (s : State) (f : CtRegs → CtRegs → Word) :
    Answers s none (readTwoCt inst instb s f) := by
  rcases getElem?_cases s.ct inst with ⟨x, hx⟩ | hlen
  · rcases getElem?_cases s.ct instb with ⟨y, hy⟩ | hlenb
    · rw [readTwoCt_some f hx hy]; exact .ok (.same _) _
    · rw [readTwoCt_none f (.inr hlenb)]; exact .error (by decide)
  · rw [readTwoCt_none f (.inl hlen)]; exact .error (by decide)

/-! ### Registers keep their width -/

@[simp] theorem fits_lowBits (n : Nat) {w m : Nat} (v : BitVec w) : fits n (lowBits n v : BitVec m) = true :=
  decide_eq_true (toNat_lowBits_lt n w m v)

@[simp] theorem fits_wrapTo (n m : Nat) (x : Int) : fits n (wrapTo n x : BitVec m) = true :=
  decide_eq_true (toNat_wrapTo_lt n m x)

@[simp] theorem fits_zero (n w : Nat) : fits n (0 : BitVec w) = true := by simp [fits]

@[simp] theorem fits_timeOperand (p : Params) (a : Word) : fits p.tw (timeOperand p a) = true := fits_lowBits ..

@[simp] theorem fits_sampleOperand (p : Params) (b : Word) : fits p.sw (sampleOperand p b) = true := by
  unfold sampleOperand
  split <;> exact fits_lowBits ..

theorem PwcRegs.ok_iff (p : Params) (r : PwcRegs) :
    r.ok p = true ↔ fits p.tw r.min = true ∧ fits p.tw r.max = true ∧ fits p.tw r.prev = true := by
  simp [PwcRegs.ok, and_assoc]

theorem NecRegs.ok_iff (p : Params) (r : NecRegs) :
    r.ok p = true ↔ fits p.tw r.hdr = true ∧ fits p.tw r.one = true ∧ fits p.tw r.zero = true ∧
      fits p.tw r.tol = true ∧ fits p.tw r.prev = true ∧ r.bitIdx.toNat ≤ 32 ∧ r.frameOk = true := by
  simp [NecRegs.ok, and_assoc]

theorem NvRegs.ok_iff (p : Params) (r : NvRegs) :
    r.ok p = true ↔ fits p.tw r.idle = true ∧ fits p.tw r.prevRise = true ∧ fits p.tw r.lastEdge = true ∧
      r.phaseOk = true := by
  simp [NvRegs.ok, and_assoc]

theorem ZxRegs.ok_iff (p : Params) (r : ZxRegs) :
    r.ok p = true ↔ fits p.tw r.prevT = true ∧ fits p.sw r.prevF = true ∧ fits p.tw r.lastX = true := by
  simp [ZxRegs.ok, and_assoc]

theorem CtRegs.ok_iff (p : Params) (r : CtRegs) :
    r.ok p = true ↔ fits p.tw r.cycle = true ∧ fits p.tw r.lastMark = true ∧ fits p.smw r.smooth = true := by
  simp [CtRegs.ok, and_assoc]

/-! ### The NEC frame invariant (R28) -/

theorem NecRegs.frameOk_of_await {r : NecRegs} (h : r.state = .await) : r.frameOk = true := by
  simp [NecRegs.frameOk, h]

theorem NecRegs.frameOk_collect_iff {r : NecRegs} (h : r.state = .collect) :
    r.frameOk = true ↔ r.bitIdx.toNat ≤ 31 ∧ r.acc.toNat < 2 ^ r.bitIdx.toNat := by
  simp [NecRegs.frameOk, h]

theorem toNat_boolWord_shiftLeft_lt (bit : Bool) (k : Nat) : (boolWord bit <<< k).toNat < 2 ^ (k + 1) := by
  have hbit : (boolWord bit).toNat ≤ 1 := by cases bit <;> decide
  calc (boolWord bit <<< k).toNat
      ≤ (boolWord bit).toNat * 2 ^ k := by
        rw [BitVec.toNat_shiftLeft, Nat.shiftLeft_eq]; exact Nat.mod_le _ _
    _ ≤ 1 * 2 ^ k := Nat.mul_le_mul_right _ hbit
    _ < 2 ^ (k + 1) := by rw [one_mul]; exact Nat.pow_lt_pow_right (by decide) (Nat.lt_succ_self k)

/-- A bit received at BITIDX leaves no accumulator bit set at or above BITIDX + 1. -/
theorem toNat_accept_lt {acc : Word} {k : Nat} (h : acc.toNat < 2 ^ k) (bit : Bool) :
    (acc ||| (boolWord bit <<< k)).toNat < 2 ^ (k + 1) := by
  rw [BitVec.toNat_or]
  exact Nat.or_lt_two_pow (h.trans (Nat.pow_lt_pow_right (by decide) (Nat.lt_succ_self k)))
    (toNat_boolWord_shiftLeft_lt bit k)

theorem NecRegs.accept_ok {p : Params} {r : NecRegs} (bit : Bool) (h : r.ok p = true) (hs : r.state = .collect) :
    (r.accept bit).1.ok p = true := by
  obtain ⟨hhdr, hone, hzero, htol, hprev, -, hframe⟩ := (r.ok_iff p).1 h
  obtain ⟨hidx, hacc⟩ := (frameOk_collect_iff hs).1 hframe
  have hnext : (BitVec.ofNat 6 (r.bitIdx.toNat + 1)).toNat = r.bitIdx.toNat + 1 := by
    rw [BitVec.toNat_ofNat]; omega
  dsimp only [NecRegs.accept]
  split
  next hlast =>
    exact (ok_iff ..).2 ⟨hhdr, hone, hzero, htol, hprev, by simp only [hnext]; omega, frameOk_of_await rfl⟩
  next hmore =>
    refine (ok_iff ..).2 ⟨hhdr, hone, hzero, htol, hprev, by simp only [hnext]; omega, ?_⟩
    rw [frameOk_collect_iff (by exact hs)]
    simp only [hnext]
    exact ⟨by omega, toNat_accept_lt hacc bit⟩

/-- Going to AWAIT with BITIDX and ACC kept, as an abort does (R127), is always well formed. -/
theorem NecRegs.await_ok {p : Params} {r : NecRegs} (h : r.ok p = true) :
    ({ r with state := .await } : NecRegs).ok p = true := by
  obtain ⟨hhdr, hone, hzero, htol, hprev, hidx, -⟩ := (r.ok_iff p).1 h
  exact (ok_iff ..).2 ⟨hhdr, hone, hzero, htol, hprev, hidx, frameOk_of_await rfl⟩

/-- BITIDX and ACC at 0 are well formed in either state. -/
theorem NecRegs.restart_ok {p : Params} {r : NecRegs} (st : NecState) (h : r.ok p = true) :
    ({ r with state := st, bitIdx := 0, acc := 0 } : NecRegs).ok p = true := by
  obtain ⟨hhdr, hone, hzero, htol, hprev, -, -⟩ := (r.ok_iff p).1 h
  refine (ok_iff ..).2 ⟨hhdr, hone, hzero, htol, hprev, Nat.zero_le _, ?_⟩
  cases st <;> rfl

theorem NecRegs.onInterval_ok {p : Params} {r : NecRegs} (dt : Int) (h : r.ok p = true) :
    (r.onInterval p dt).1.ok p = true := by
  unfold NecRegs.onInterval
  split
  next =>
    split
    · exact restart_ok .collect h
    · exact h
  next hs =>
    split
    · exact accept_ok _ h hs
    · exact await_ok h

theorem NecRegs.edge_ok {p : Params} {t : TimeReg} {r : NecRegs} (ht : fits p.tw t = true) (h : r.ok p = true) :
    (r.edge p t).1.ok p = true := by
  obtain ⟨hhdr, hone, hzero, htol, -, hidx, hframe⟩ := (r.ok_iff p).1 h
  exact onInterval_ok _ ((ok_iff ..).2 ⟨hhdr, hone, hzero, htol, ht, hidx, hframe⟩)

/-! ### The NV phase invariant (R31) -/

/-- A synchronised decoder's phase is that of its position, which is one of 0..6. -/
theorem NvRegs.phaseOk_iff (r : NvRegs) :
    r.phaseOk = true ↔ (r.sync = false → r.phase = .off ∧ r.pos = 0) ∧ r.pos.toNat ≤ 6 ∧
      r.phase = phaseAt r.pos.toNat := by
  cases h : r.sync <;> simp [NvRegs.phaseOk, h, and_assoc]

theorem nextPos_le (pos : Nat) : nextPos pos ≤ 6 := by
  unfold nextPos
  split <;> omega

theorem NvRegs.drop_ok {p : Params} {r : NvRegs} (h : r.ok p = true) : r.drop.ok p = true := by
  obtain ⟨hidle, hrise, hlast, -⟩ := (r.ok_iff p).1 h
  exact (ok_iff ..).2 ⟨hidle, hrise, hlast, rfl⟩

theorem NvRegs.advance_ok {p : Params} {r : NvRegs} (d : Int) (h : r.ok p = true) : (r.advance d).ok p = true := by
  obtain ⟨hidle, hrise, hlast, -⟩ := (r.ok_iff p).1 h
  unfold NvRegs.advance
  split
  · exact (ok_iff ..).2 ⟨hidle, hrise, hlast, rfl⟩
  · split
    next hsync =>
      have hle := nextPos_le r.pos.toNat
      have hpos : (BitVec.ofNat 3 (nextPos r.pos.toNat)).toNat = nextPos r.pos.toNat := by
        rw [BitVec.toNat_ofNat]; omega
      refine (ok_iff ..).2 ⟨hidle, hrise, hlast, (phaseOk_iff _).2 ⟨by simp [hsync], ?_, ?_⟩⟩
      · simpa only [hpos] using hle
      · simp only [hpos]
    next => exact h

theorem NvRegs.edge_ok {p : Params} {t : TimeReg} {r : NvRegs} (level : Bool) (ht : fits p.tw t = true)
    (h : r.ok p = true) : (r.edge p t level).ok p = true := by
  obtain ⟨hidle, -, -, hphase⟩ := (r.ok_iff p).1 h
  unfold NvRegs.edge
  split
  · split
    · exact h
    · exact advance_ok _ ((ok_iff ..).2 ⟨hidle, ht, ht, hphase⟩)
  · exact h

theorem NvRegs.idleCheck_ok {p : Params} {r : NvRegs} (t : TimeReg) (h : r.ok p = true) :
    (r.idleCheck p t).ok p = true := by
  unfold NvRegs.idleCheck
  split
  · exact drop_ok h
  · exact h

/-! ### The other blocks' operations keep the widths -/

theorem PwcRegs.setWindow_ok {p : Params} {r : PwcRegs} (w tol : Nat) (h : r.ok p = true) :
    (r.setWindow p w tol).ok p = true := by
  obtain ⟨-, -, hprev⟩ := (r.ok_iff p).1 h
  exact (ok_iff ..).2 ⟨fits_wrapTo .., fits_wrapTo .., hprev⟩

theorem ZxRegs.feed_ok {p : Params} {t : TimeReg} {f : SampleReg} {r : ZxRegs} (ht : fits p.tw t = true)
    (hf : fits p.sw f = true) (h : r.ok p = true) : (r.feed p t f).ok p = true := by
  obtain ⟨-, -, hlast⟩ := (r.ok_iff p).1 h
  refine (ok_iff ..).2 ⟨ht, hf, ?_⟩
  unfold ZxRegs.feed
  split
  · exact fits_wrapTo ..
  · exact hlast

theorem CtRegs.mark_ok {p : Params} {t : TimeReg} {r : CtRegs} (ht : fits p.tw t = true) (h : r.ok p = true) :
    (r.mark p t).ok p = true := by
  obtain ⟨-, -, hsmooth⟩ := (r.ok_iff p).1 h
  unfold CtRegs.mark
  split
  · exact (ok_iff ..).2 ⟨fits_wrapTo .., ht, hsmooth⟩
  · exact (ok_iff ..).2 ⟨fits_wrapTo .., ht, fits_wrapTo ..⟩
  · exact (ok_iff ..).2 ⟨fits_wrapTo .., ht, fits_wrapTo ..⟩

/-! ### REG_WR's write effect -/

/-- Modifying an element that exists sets it; modifying past the end changes nothing. -/
theorem modify_cases {α : Type} (l : List α) (i : Nat) (f : α → α) :
    (∃ r, l[i]? = some r ∧ l.modify i f = l.set i (f r)) ∨ l.modify i f = l := by
  rw [List.modify_eq_set_getElem?]
  cases h : l[i]? with
  | none => exact .inr rfl
  | some r => exact .inl ⟨r, rfl, rfl⟩

theorem Updates.modifyPwc {s : State} (inst : Nat) {f : PwcRegs → PwcRegs}
    (hf : ∀ r, r.ok s.params = true → (f r).ok s.params = true) :
    Updates s (some (.pwc, inst)) { s with pwc := s.pwc.modify inst f } := by
  rcases modify_cases s.pwc inst f with ⟨r, hr, h⟩ | h
  · rw [h]; exact .pwc hr (hf r)
  · rw [h]; exact .same _

theorem Updates.modifyNec {s : State} (inst : Nat) {f : NecRegs → NecRegs}
    (hf : ∀ r, r.ok s.params = true → (f r).ok s.params = true) :
    Updates s (some (.nec, inst)) { s with nec := s.nec.modify inst f } := by
  rcases modify_cases s.nec inst f with ⟨r, hr, h⟩ | h
  · rw [h]; exact .nec hr (hf r)
  · rw [h]; exact .same _

theorem Updates.modifyNv {s : State} (inst : Nat) {f : NvRegs → NvRegs}
    (hf : ∀ r, r.ok s.params = true → (f r).ok s.params = true) :
    Updates s (some (.nv, inst)) { s with nv := s.nv.modify inst f } := by
  rcases modify_cases s.nv inst f with ⟨r, hr, h⟩ | h
  · rw [h]; exact .nv hr (hf r)
  · rw [h]; exact .same _

theorem Updates.modifyCt {s : State} (inst : Nat) {f : CtRegs → CtRegs}
    (hf : ∀ r, r.ok s.params = true → (f r).ok s.params = true) :
    Updates s (some (.ct, inst)) { s with ct := s.ct.modify inst f } := by
  rcases modify_cases s.ct inst f with ⟨r, hr, h⟩ | h
  · rw [h]; exact .ct hr (hf r)
  · rw [h]; exact .same _

/-- The write effect of a row updates at most the registers it addresses: the eight RW rows take the operand's low bits,
the others nothing (R62, R232). -/
theorem State.writeReg_updates (s : State) (g : Reg) (inst : Nat) (b : Word) :
    Updates s (some (g.block, inst)) (s.writeReg g inst b) := by
  cases g
  case pwcMin =>
    exact .modifyPwc inst fun r h => by
      obtain ⟨-, hrest⟩ := (r.ok_iff _).1 h
      exact (PwcRegs.ok_iff ..).2 ⟨fits_lowBits .., hrest⟩
  case pwcMax =>
    exact .modifyPwc inst fun r h => by
      obtain ⟨hmin, -, hprev⟩ := (r.ok_iff _).1 h
      exact (PwcRegs.ok_iff ..).2 ⟨hmin, fits_lowBits .., hprev⟩
  case necHdr =>
    exact .modifyNec inst fun r h => by
      obtain ⟨-, hrest⟩ := (r.ok_iff _).1 h
      exact (NecRegs.ok_iff ..).2 ⟨fits_lowBits .., hrest⟩
  case necOne =>
    exact .modifyNec inst fun r h => by
      obtain ⟨hhdr, -, hrest⟩ := (r.ok_iff _).1 h
      exact (NecRegs.ok_iff ..).2 ⟨hhdr, fits_lowBits .., hrest⟩
  case necZero =>
    exact .modifyNec inst fun r h => by
      obtain ⟨hhdr, hone, -, hrest⟩ := (r.ok_iff _).1 h
      exact (NecRegs.ok_iff ..).2 ⟨hhdr, hone, fits_lowBits .., hrest⟩
  case necTol =>
    exact .modifyNec inst fun r h => by
      obtain ⟨hhdr, hone, hzero, -, hrest⟩ := (r.ok_iff _).1 h
      exact (NecRegs.ok_iff ..).2 ⟨hhdr, hone, hzero, fits_lowBits .., hrest⟩
  case nvIdle =>
    exact .modifyNv inst fun r h => by
      obtain ⟨-, hrest⟩ := (r.ok_iff _).1 h
      exact (NvRegs.ok_iff ..).2 ⟨fits_lowBits .., hrest⟩
  case ctE =>
    exact .modifyCt inst fun r h => (CtRegs.ok_iff ..).2 ((r.ok_iff _).1 h)
  all_goals exact .same _

/-! ### Every command, by its constructor -/

theorem execRegRd_answers (inst : Nat) (a : Word) (s : State) : Answers s none (execRegRd inst a s) := by
  unfold execRegRd
  split
  · exact .error (by decide)
  · split
    · exact .error (by decide)
    · exact .ok (.same _) _

theorem execRegWr_answers (inst : Nat) (a b : Word) (s : State) :
    Answers s ((lookupReg a).map fun g => (g.block, inst)) (execRegWr inst a b s) := by
  unfold execRegWr
  cases lookupReg a with
  | none => exact .error (by decide)
  | some g =>
    dsimp only
    split
    · exact .error (by decide)
    · split
      · exact .ok (s.writeReg_updates g inst b) 0
      · exact .error (by decide)

/-- Every command ends in an error that changes nothing, or in OK after an update of its write target alone that keeps
the registers well formed. -/
theorem exec_answers (i : Instr) (s : State) : Answers s (writeTarget i) (exec i s) := by
  cases i with
  | pwcSetwin => exact onPwc_answers fun _ h => PwcRegs.setWindow_ok _ _ h
  | pwcClassify =>
    exact onPwc_answers fun r h => by
      obtain ⟨hmin, hmax, -⟩ := (r.ok_iff _).1 h
      exact (PwcRegs.ok_iff ..).2 ⟨hmin, hmax, fits_timeOperand ..⟩
  | necInit => exact onNec_answers fun _ h => NecRegs.restart_ok .await h
  | necEdge => exact onNec_answers fun _ h => NecRegs.edge_ok (fits_timeOperand ..) h
  | necCheck => exact .ok (.same _) _
  | necCheckext => exact .ok (.same _) _
  | nvInit => exact onNv_answers fun _ h => NvRegs.drop_ok h
  | nvEdge => exact onNv_answers fun _ h => NvRegs.edge_ok _ (fits_timeOperand ..) h
  | nvIdle => exact onNv_answers fun _ h => NvRegs.idleCheck_ok _ h
  | zxInit =>
    exact onZx_answers fun r h => by
      obtain ⟨-, -, hlast⟩ := (r.ok_iff _).1 h
      exact (ZxRegs.ok_iff ..).2 ⟨fits_timeOperand .., fits_sampleOperand .., hlast⟩
  | zxFeed => exact onZx_answers fun _ h => ZxRegs.feed_ok (fits_timeOperand ..) (fits_sampleOperand ..) h
  | ctInit =>
    exact onCt_answers fun r h => by
      obtain ⟨-, hrest⟩ := (r.ok_iff _).1 h
      exact (CtRegs.ok_iff ..).2 ⟨fits_zero .., hrest⟩
  | ctUpdate => exact onCt_answers fun _ h => CtRegs.mark_ok (fits_timeOperand ..) h
  | ctIsvalid => exact readCt_answers ..
  | ctIsrotating => exact readCt_answers ..
  | ctCycleus => exact readCt_answers ..
  | ctSmoothus => exact readCt_answers ..
  | ctSpeedclose => exact readTwoCt_answers ..
  | ctAvgclose => exact readTwoCt_answers ..
  | regRd inst a => exact execRegRd_answers inst a s
  | regWr inst a b => exact execRegWr_answers inst a b s

theorem runCommand_of_decode {c : Command} {i : Instr} (h : decode c = .ok i) (s : State) :
    runCommand c s = exec i s := by
  simp [runCommand, h]

theorem runCommand_of_reject {c : Command} {e : Reject} (h : decode c = .error e) (s : State) :
    runCommand c s = .next (s.answer .errOpc 0) := by
  simp [runCommand, h]

/-- A command as presented, an illegal header among them, ends as an instruction does. -/
theorem runCommand_answers (c : Command) (s : State) : ∃ k, Answers s k (runCommand c s) := by
  cases h : decode c with
  | ok i => exact ⟨writeTarget i, runCommand_of_decode h s ▸ exec_answers i s⟩
  | error e => exact ⟨none, runCommand_of_reject h s ▸ .error (by decide)⟩

/-! ### What an answered command leaves unchanged -/

theorem Updates.frame {s u : State} {k : Option (Block × Nat)} (h : Updates s k u) :
    u.params = s.params ∧ u.counts = s.counts ∧ u.port = s.port ∧ u.pending = s.pending := by
  cases h <;> simp [State.counts]

theorem Answers.exists_answered {s : State} {k : Option (Block × Nat)} {o : Result} (h : Answers s k o) :
    ∃ t r, o = .next t ∧ t.port = .answered r ∧ t.params = s.params ∧ t.counts = s.counts ∧
      t.pending = s.pending := by
  cases h with
  | error => exact ⟨_, _, rfl, rfl, rfl, rfl, rfl⟩
  | ok hu d =>
    obtain ⟨hparams, hcounts, -, hpending⟩ := hu.frame
    exact ⟨_, _, rfl, rfl, hparams, hcounts, hpending⟩

/-! ### The invariant -/

theorem State.inv_iff (s : State) :
    s.inv = true ↔ s.params.legal = true ∧ s.counts.legal = true ∧ (∀ r ∈ s.pwc, r.ok s.params = true) ∧
      (∀ r ∈ s.nec, r.ok s.params = true) ∧ (∀ r ∈ s.nv, r.ok s.params = true) ∧
      (∀ r ∈ s.zx, r.ok s.params = true) ∧ (∀ r ∈ s.ct, r.ok s.params = true) ∧ s.port.ok = true := by
  simp [State.inv, and_assoc]

/-- The invariant with another port and other commands yet to come asks only that the new port is well formed. -/
theorem State.inv_of_port {s : State} (h : s.inv = true) {q : Port} (hq : q.ok = true) (cs : List Command) :
    ({ s with port := q, pending := cs } : State).inv = true := by
  obtain ⟨hp, hn, hpwc, hnec, hnv, hzx, hct, -⟩ := s.inv_iff.1 h
  exact (State.inv_iff _).2 ⟨hp, hn, hpwc, hnec, hnv, hzx, hct, hq⟩

/-- A list whose elements are all well formed stays so when an element is replaced by one that is well formed where the
old one was. -/
theorem forall_mem_set {α : Type} {ok : α → Prop} {l : List α} {i : Nat} {r r' : α} (hl : ∀ x ∈ l, ok x)
    (hr : l[i]? = some r) (hok : ok r → ok r') : ∀ x ∈ l.set i r', ok x := by
  intro x hx
  rcases List.mem_or_eq_of_mem_set hx with hmem | rfl
  · exact hl x hmem
  · exact hok (hl r (List.mem_of_getElem? hr))

theorem Updates.inv {s u : State} {k : Option (Block × Nat)} (h : Updates s k u) (hs : s.inv = true) :
    u.inv = true := by
  obtain ⟨-, hcounts, -, -⟩ := h.frame
  obtain ⟨hp, hn, hpwc, hnec, hnv, hzx, hct, hport⟩ := s.inv_iff.1 hs
  rw [← hcounts] at hn
  refine (State.inv_iff _).2 ?_
  cases h with
  | same => exact ⟨hp, hn, hpwc, hnec, hnv, hzx, hct, hport⟩
  | pwc hr ok => exact ⟨hp, hn, forall_mem_set hpwc hr ok, hnec, hnv, hzx, hct, hport⟩
  | nec hr ok => exact ⟨hp, hn, hpwc, forall_mem_set hnec hr ok, hnv, hzx, hct, hport⟩
  | nv hr ok => exact ⟨hp, hn, hpwc, hnec, forall_mem_set hnv hr ok, hzx, hct, hport⟩
  | zx hr ok => exact ⟨hp, hn, hpwc, hnec, hnv, forall_mem_set hzx hr ok, hct, hport⟩
  | ct hr ok => exact ⟨hp, hn, hpwc, hnec, hnv, hzx, forall_mem_set hct hr ok, hport⟩

theorem Answers.inv {s t : State} {k : Option (Block × Nat)} (h : Answers s k (.next t)) (hs : s.inv = true) :
    t.inv = true := by
  cases h with
  | error => exact State.inv_of_port hs (by simp [Port.ok]) s.pending
  | ok hu d => exact State.inv_of_port (hu.inv hs) rfl _

/-- Every command, an illegal header among them, keeps the invariant. -/
theorem runCommand_keeps_inv {c : Command} {s t : State} (hs : s.inv = true) (h : runCommand c s = .next t) :
    t.inv = true := by
  obtain ⟨k, hk⟩ := runCommand_answers c s
  rw [h] at hk
  exact hk.inv hs

/-! ### What a step is -/

/-- The command a step performs, if any, is performed in the same registers with the port idle. -/
theorem fetchCommand_cases (s : State) :
    fetchCommand s = none ∨ ∃ c cs, fetchCommand s = some (c, { s with port := .idle, pending := cs }) := by
  unfold fetchCommand
  split
  · exact .inr ⟨_, s.pending, rfl⟩
  · split
    · exact .inl rfl
    · exact .inr ⟨_, _, rfl⟩

theorem step_of_fetch {s u : State} {c : Command} (h : fetchCommand s = some (c, u)) : step s = runCommand c u := by
  simp [step, h]

theorem step_of_fetch_none {s : State} (h : fetchCommand s = none) : step s = .next s := by
  simp [step, h]

/-- Settles O16: fetching only idles the port, and every command keeps the invariant (`runCommand_keeps_inv`). -/
theorem stepKeepsInv : Obligations.StepKeepsInv := by
  intro s t hs ht
  rcases fetchCommand_cases s with hf | ⟨c, cs, hf⟩
  · rw [step_of_fetch_none hf] at ht
    cases ht
    exact hs
  · rw [step_of_fetch hf] at ht
    exact runCommand_keeps_inv (State.inv_of_port hs rfl cs) ht

/-- Settles O6: a step waits or performs a command, and every command answers. -/
theorem stepNeverStops : Obligations.StepNeverStops := by
  intro s
  rcases fetchCommand_cases s with hf | ⟨c, cs, hf⟩
  · exact ⟨s, step_of_fetch_none hf⟩
  · obtain ⟨k, hk⟩ := runCommand_answers c { s with port := .idle, pending := cs }
    obtain ⟨t, -, ht, -⟩ := hk.exists_answered
    exact ⟨t, (step_of_fetch hf).trans ht⟩

/-- Settles O7, from the two ways a command can end (`exec_answers`). -/
theorem everyCommandAnswersOnce : Obligations.EveryCommandAnswersOnce := fun i s =>
  (exec_answers i s).exists_answered

/-- Settles O5: the command fetched is the one in flight or the first of `pending`. -/
theorem stepRunsTheNextCommand : Obligations.StepRunsTheNextCommand := by
  intro s u c
  refine ⟨fun h => ?_, fun hp hnil => step_of_fetch_none (fetchCommand_none hp hnil)⟩
  have hstep : step s = runCommand c u := by
    rcases h with ⟨n, hbusy, rfl⟩ | ⟨hp, rest, hpend, rfl⟩
    · exact step_of_fetch (fetchCommand_busy hbusy)
    · exact step_of_fetch (fetchCommand_pending hp hpend)
  exact ⟨fun i hi => hstep.trans (runCommand_of_decode hi u),
    fun e he => ⟨hstep, hstep.trans (runCommand_of_reject he u)⟩⟩

/-- Settles O13, by evaluating the reset state. -/
theorem resetStateOfTheModel : Obligations.ResetStateOfTheModel :=
  ⟨rfl, rfl, rfl, rfl, rfl, rfl, rfl, rfl, rfl⟩

/-! ### ZX samples of every width (log 7) -/

theorem execZxInit_some {s : State} {inst : Nat} {r : ZxRegs} (h : s.zx[inst]? = some r) (a b : Word) :
    exec (.zxInit inst a b) s = .next
      ((s.setZx inst { r with prevT := timeOperand s.params a, prevF := sampleOperand s.params b }).answer .ok 0) :=
  onZx_some _ h

theorem execZxFeed_some {s : State} {inst : Nat} {r : ZxRegs} (h : s.zx[inst]? = some r) (a b : Word) :
    exec (.zxFeed inst a b) s = .next
      ((s.setZx inst (r.feed s.params (timeOperand s.params a) (sampleOperand s.params b))).answer .ok
        (boolWord (r.crossing s.params (sampleOperand s.params b)))) :=
  onZx_some _ h

/-- There is no crossing exactly where both samples are of one sign class (R183). -/
theorem ZxRegs.crossing_eq_false_iff (p : Params) (f : SampleReg) (r : ZxRegs) :
    r.crossing p f = false ↔ (sVal p.sw r.prevF < 0 ↔ sVal p.sw f < 0) := by
  rw [← Bool.not_eq_true, ZxRegs.crossing, crosses_iff]
  tauto

/-- The answer of ZX_FEED: 0 for one sign class, 1 for two (R182). -/
theorem ZxRegs.boolWord_crossing (p : Params) (f : SampleReg) (r : ZxRegs) :
    boolWord (r.crossing p f) = if (sVal p.sw r.prevF < 0 ↔ sVal p.sw f < 0) then 0 else 1 := by
  simp only [← r.crossing_eq_false_iff]
  cases r.crossing p f <;> rfl

/-- One sample with R182's branch and R184's quotient written out. -/
theorem ZxRegs.feed_eq (p : Params) (t : TimeReg) (f : SampleReg) (r : ZxRegs) :
    r.feed p t f =
      { prevT := t, prevF := f
        lastX := if (sVal p.sw r.prevF < 0 ↔ sVal p.sw f < 0) then r.lastX
          else wrapTo p.tw ((sVal p.sw f * uVal p.tw r.prevT - sVal p.sw r.prevF * uVal p.tw t).fdiv
            (sVal p.sw f - sVal p.sw r.prevF)) } := by
  simp only [← r.crossing_eq_false_iff, ZxRegs.feed]
  cases r.crossing p f <;> rfl

/-- REG_RD of PREVF answers the sample sign-extended, or cut, to a word (R62). -/
theorem readsAs_zxPrevF {s : State} {inst : Nat} {r : ZxRegs} (h : s.zx[inst]? = some r) :
    readsAs s inst 0x311 ((r.prevF.setWidth s.params.sw).signExtend 32) := by
  have hlookup : lookupReg 0x311 = some .zxPrevF := lookupReg_address .zxPrevF
  have hread : s.readReg .zxPrevF inst = some (sextTo 32 s.params.sw r.prevF) := by
    simp [State.readReg, h]
  show execRegRd inst 0x311 s = _
  simp only [execRegRd, hlookup, hread]
  rfl

/-- Where a sample is wider than a word, REG_RD of PREVF answers its low 32 bits (log 7). -/
theorem readsAs_zxPrevF_wide {s : State} {inst : Nat} {r : ZxRegs} (h : s.zx[inst]? = some r)
    (hsw : 32 < s.params.sw) : readsAs s inst 0x311 (r.prevF.setWidth 32) := by
  have hcut : (r.prevF.setWidth s.params.sw).signExtend 32 = r.prevF.setWidth 32 := by
    rw [BitVec.signExtend_eq_setWidth_of_le _ hsw.le, BitVec.setWidth_setWidth_of_le _ hsw.le]
  exact hcut ▸ readsAs_zxPrevF h

/-- A sample operand wider than the operand word B has B as its low 32 bits (log 7). -/
theorem setWidth_sampleOperand {p : Params} (hsw : 32 < p.sw) (b : Word) : (sampleOperand p b).setWidth 32 = b := by
  rw [sampleOperand, if_neg hsw.not_ge, lowBits, BitVec.setWidth_setWidth_of_le _ (by decide),
    BitVec.setWidth_setWidth_of_le _ hsw.le, BitVec.setWidth_append_eq_right]

/-- Where a sample is wider than a word, REG_RD of PREVF answers B in any state that stores B's sample. -/
theorem readsAs_stored_sample {s : State} {inst : Nat} {r r' : ZxRegs} {b d : Word} (h : s.zx[inst]? = some r)
    (hr' : r'.prevF = sampleOperand s.params b) (hsw : 32 < s.params.sw) :
    readsAs ((s.setZx inst r').answer .ok d) inst 0x311 b := by
  have hset : ((s.setZx inst r').answer .ok d).zx[inst]? = some r' :=
    List.getElem?_set_self (List.getElem?_eq_some_iff.1 h).1
  have hread := readsAs_zxPrevF_wide hset hsw
  rwa [hr', setWidth_sampleOperand hsw] at hread

/-- Settles O42: the two commands' equations, and what REG_RD of PREVF answers before and after them. -/
theorem zxEverySampleWidth : Obligations.ZxEverySampleWidth := by
  intro s inst a b r f t0 t1 f0 f1 hr hf ht0 ht1 hf0 hf1
  have hinit := execZxInit_some hr a b
  have hfeed := execZxFeed_some hr a b
  subst hf
  refine ⟨hinit, ?_, readsAs_zxPrevF hr, fun hsw =>
    ⟨setWidth_sampleOperand hsw b, readsAs_zxPrevF_wide hr hsw, ?_⟩⟩
  · subst ht0 ht1 hf0 hf1
    rw [hfeed, ZxRegs.feed_eq, ZxRegs.boolWord_crossing]
    rfl
  · rintro u (hu | hu)
    · rw [hinit] at hu
      cases hu
      exact readsAs_stored_sample hr rfl hsw
    · rw [hfeed] at hu
      cases hu
      exact readsAs_stored_sample hr rfl hsw

end Sys2Proof.Machine
end

section
/-! PROOFS. The state statements: the invariant after a reset and at every clock edge, what an interval is, the isolation
of the instances, and a tracker's stage after a mark. -/

namespace Sys2Proof

theorem Params.legal_iff (p : Params) :
    p.legal = true ↔ 16 ≤ p.tw ∧ p.tw ≤ 32 ∧ 2 ≤ p.sw ∧ p.sw + p.tw ≤ 62 := by
  simp [Params.legal, and_assoc]

end Sys2Proof

namespace Sys2Proof.Machine

/-! ### The invariant after a reset (R271) -/

theorem PwcRegs.reset_ok (p : Params) (d : Draws) (i : Nat) : (PwcRegs.reset p d i).ok p = true :=
  (ok_iff ..).2 ⟨fits_lowBits .., fits_lowBits .., fits_lowBits ..⟩

/-- A number below 2^16 fits a register of every legal TW, as NEC's configured centres do (R26). -/
theorem fits_ofNat {n k : Nat} (hn : 16 ≤ n) (hk : k < 2 ^ 16) (w : Nat) : fits n (BitVec.ofNat w k) = true := by
  refine decide_eq_true ?_
  calc (BitVec.ofNat w k).toNat ≤ k := by rw [BitVec.toNat_ofNat]; exact Nat.mod_le _ _
    _ < 2 ^ 16 := hk
    _ ≤ 2 ^ n := Nat.pow_le_pow_right (by decide) hn

theorem NecRegs.reset_ok {p : Params} (htw : 16 ≤ p.tw) (d : Draws) (i : Nat) : (NecRegs.reset p d i).ok p = true :=
  (ok_iff ..).2 ⟨fits_ofNat htw (by decide) 32, fits_ofNat htw (by decide) 32, fits_ofNat htw (by decide) 32,
    fits_ofNat htw (by decide) 32, fits_lowBits .., Nat.zero_le _, frameOk_of_await rfl⟩

theorem NvRegs.reset_ok (p : Params) (d : Draws) (i : Nat) : (NvRegs.reset p d i).ok p = true :=
  (ok_iff ..).2 ⟨fits_lowBits .., fits_lowBits .., fits_lowBits .., rfl⟩

theorem ZxRegs.reset_ok (p : Params) (d : Draws) (i : Nat) : (ZxRegs.reset p d i).ok p = true :=
  (ok_iff ..).2 ⟨fits_lowBits .., fits_lowBits .., fits_lowBits ..⟩

theorem CtRegs.reset_ok (p : Params) (d : Draws) (i : Nat) : (CtRegs.reset p d i).ok p = true :=
  (ok_iff ..).2 ⟨fits_zero .., fits_lowBits .., fits_lowBits ..⟩

@[simp] theorem State.resetWith_counts (p : Params) (n : Counts) (d : Draws) :
    (State.resetWith p n d).counts = n := by
  simp [State.counts, State.resetWith]

/-- Settles O15: each block's reset registers are well formed (the `reset_ok` lemmas), the defaults of NEC because every
legal TW holds them. -/
theorem everyResetSatisfiesInv : Obligations.EveryResetSatisfiesInv := by
  intro p n d hp hn
  obtain ⟨htw, -, -, -⟩ := p.legal_iff.1 hp
  exact (State.inv_iff _).2 ⟨hp, (State.resetWith_counts p n d).symm ▸ hn,
    List.forall_mem_map.2 fun i _ => PwcRegs.reset_ok p d i,
    List.forall_mem_map.2 fun i _ => NecRegs.reset_ok htw d i,
    List.forall_mem_map.2 fun i _ => NvRegs.reset_ok p d i,
    List.forall_mem_map.2 fun i _ => ZxRegs.reset_ok p d i,
    List.forall_mem_map.2 fun i _ => CtRegs.reset_ok p d i, rfl⟩

/-- Settles O14: R7's defaults are legal, so it is the case of the zero draw. -/
theorem resetSatisfiesInv : Obligations.ResetSatisfiesInv :=
  everyResetSatisfiesInv Params.default Counts.default Draws.zero (by decide) (by decide)

/-! ### The invariant at every clock edge (R97, R270) -/

theorem clockEdge_rst {x : Pins} (h : x.rst = true) (s : State) : clockEdge x s = .next (s.resetEdge x.draws) := by
  simp [clockEdge, h]

theorem clockEdge_idle {x : Pins} {s : State} (h : x.rst = false) (hp : s.port = .idle) :
    clockEdge x s = .next (if x.cmdValid then { s with port := .busy x.cmd x.extra } else s) := by
  simp [clockEdge, h, hp]

theorem clockEdge_busy_zero {x : Pins} {s : State} {c : Command} (h : x.rst = false) (hp : s.port = .busy c 0) :
    clockEdge x s = runCommand c s := by
  simp [clockEdge, h, hp]

theorem clockEdge_busy_succ {x : Pins} {s : State} {c : Command} {n : Nat} (h : x.rst = false)
    (hp : s.port = .busy c (n + 1)) : clockEdge x s = .next { s with port := .busy c n } := by
  simp [clockEdge, h, hp]

theorem clockEdge_answered {x : Pins} {s : State} {r : Response} (h : x.rst = false) (hp : s.port = .answered r) :
    clockEdge x s = .next (if x.rspReady then { s with port := .idle } else s) := by
  simp [clockEdge, h, hp]

theorem State.resetEdge_inv {s : State} (h : s.inv = true) (d : Draws) : (s.resetEdge d).inv = true := by
  obtain ⟨hp, hn, -⟩ := s.inv_iff.1 h
  exact State.inv_of_port (everyResetSatisfiesInv s.params s.counts d hp hn) rfl s.pending

/-- Settles O17: a reset edge gives a reset state, the edge that completes a command keeps the invariant as the command
does (`runCommand_keeps_inv`), and any other edge moves the port alone. -/
theorem clockEdgeKeepsInv : Obligations.ClockEdgeKeepsInv := by
  intro x s t hs ht
  cases hrst : x.rst with
  | true =>
    rw [clockEdge_rst hrst] at ht
    cases ht
    exact State.resetEdge_inv hs x.draws
  | false =>
    cases hport : s.port with
    | idle =>
      rw [clockEdge_idle hrst hport] at ht
      cases ht
      split
      · exact State.inv_of_port hs rfl s.pending
      · exact hs
    | busy c n =>
      cases n with
      | zero =>
        rw [clockEdge_busy_zero hrst hport] at ht
        exact runCommand_keeps_inv hs ht
      | succ n =>
        rw [clockEdge_busy_succ hrst hport] at ht
        cases ht
        exact State.inv_of_port hs rfl s.pending
    | answered r =>
      rw [clockEdge_answered hrst hport] at ht
      cases ht
      split
      · exact State.inv_of_port hs rfl s.pending
      · exact hs

/-! ### Intervals (R21) -/

theorem neg_le_interval (tw : Nat) (t p : TimeReg) : -(2 : Int) ^ (tw - 1) ≤ interval tw t p := BitVec.le_toInt _

theorem interval_lt (tw : Nat) (t p : TimeReg) : interval tw t p < (2 : Int) ^ (tw - 1) := BitVec.toInt_lt

/-- An interval is the difference of the two patterns, read signed. -/
theorem interval_eq_toInt_sub (tw : Nat) (t p : TimeReg) :
    interval tw t p = (t.setWidth tw - p.setWidth tw).toInt := by
  rw [interval_eq_bmod, BitVec.toInt_sub, BitVec.toInt_eq_toNat_bmod, BitVec.toInt_eq_toNat_bmod,
    Int.bmod_sub_bmod, Int.sub_bmod_bmod, uVal, uVal]

/-- A number in the signed n-bit range is its own balanced remainder modulo 2^n. -/
theorem bmod_two_pow_of_range {n : Nat} {x : Int} (hn : 0 < n) (hlo : -(2 : Int) ^ (n - 1) ≤ x)
    (hhi : x < (2 : Int) ^ (n - 1)) : x.bmod (2 ^ n) = x := by
  have hpow : ((2 ^ n : Nat) : Int) = 2 * 2 ^ (n - 1) := by
    rw [Nat.cast_pow, Nat.cast_ofNat, mul_pow_sub_one hn.ne']
  apply Int.bmod_eq_of_le_mul_two <;> omega

/-- A number in the signed n-bit range is read back as it was written. -/
theorem sVal_wrapTo_of_range {n w : Nat} {x : Int} (hn : 0 < n) (hnw : n ≤ w) (hlo : -(2 : Int) ^ (n - 1) ≤ x)
    (hhi : x < (2 : Int) ^ (n - 1)) : sVal n (wrapTo n x : BitVec w) = x := by
  rw [sVal_wrapTo n w x hnw, BitVec.toInt_ofInt, bmod_two_pow_of_range hn hlo hhi]

/-- An interval takes its operand's low TW bits. -/
theorem interval_timeOperand {p : Params} (htw : p.tw ≤ 32) (a : Word) (q : TimeReg) :
    interval p.tw (timeOperand p a) q = interval p.tw a q := by
  rw [interval_eq_bmod, interval_eq_bmod, timeOperand, uVal_lowBits _ _ _ _ htw]

/-- The timestamp `d` after another, the counter wrapping at 2^TW: the patterns differ by the pattern of `d`. -/
theorem interval_add_eq_bmod {tw : Nat} (htw : tw ≤ 32) (p : TimeReg) (d : Nat) :
    interval tw (lowBits tw (p + BitVec.ofNat 32 d)) p = (d : Int).bmod (2 ^ tw) := by
  have hsub : (lowBits tw (p + BitVec.ofNat 32 d) : TimeReg).setWidth tw - p.setWidth tw = BitVec.ofNat tw d := by
    rw [lowBits, BitVec.setWidth_setWidth_of_le _ htw, BitVec.setWidth_eq, BitVec.setWidth_add _ _ htw,
      BitVec.setWidth_ofNat_of_le htw, BitVec.add_comm, BitVec.add_sub_cancel]
  rw [interval_eq_toInt_sub, hsub, BitVec.toInt_ofNat']

/-- Settles O18: the interval is the balanced remainder of the difference (`interval_eq_bmod`), which a distance below
2^(TW−1) equals. -/
theorem intervalIsModularDistance : Obligations.IntervalIsModularDistance := by
  intro tw t p hlo hhi
  refine ⟨neg_le_interval tw t p, interval_lt tw t p, ?_, fun d hd => ?_⟩
  · rw [interval_eq_bmod]
    exact_mod_cast Int.dvd_bmod_sub_self (m := 2 ^ tw)
  · rw [interval_add_eq_bmod hhi]
    refine bmod_two_pow_of_range (by omega) ?_ (by exact_mod_cast hd)
    exact (neg_nonpos.2 (by positivity)).trans (Int.natCast_nonneg d)

/-! ### The isolation of the instances (R20, R22, R67) -/

theorem sameInstance_refl (k : Block) (inst : Nat) (s : State) : sameInstance k inst s s := by cases k <;> rfl

/-! A response on the port is no matter of the instances. -/

theorem sameInstance_answer_left {k : Block} {inst : Nat} {s s' : State} {st : Status} {d : Word} :
    sameInstance k inst (s.answer st d) s' ↔ sameInstance k inst s s' := by cases k <;> rfl

theorem sameInstance_answer_right {k : Block} {inst : Nat} {s s' : State} {st : Status} {d : Word} :
    sameInstance k inst s (s'.answer st d) ↔ sameInstance k inst s s' := by cases k <;> rfl

/-- A write to one of a block's instances leaves its others. -/
theorem getElem?_set_of_target_ne {α : Type} {l : List α} {x : α} {k : Block} {i j : Nat}
    (hne : some (k, j) ≠ some (k, i)) : (l.set j x)[i]? = l[i]? :=
  List.getElem?_set_ne fun hij => hne (by rw [hij])

/-- An update of a write target leaves all other instances as they are. -/
theorem Updates.sameInstance {s u : State} {target : Option (Block × Nat)} (h : Updates s target u) {k : Block}
    {i : Nat} (hne : target ≠ some (k, i)) : sameInstance k i s u := by
  cases h with
  | same => exact sameInstance_refl k i s
  | pwc =>
    cases k with
    | pwc => exact getElem?_set_of_target_ne hne
    | _ => rfl
  | nec =>
    cases k with
    | nec => exact getElem?_set_of_target_ne hne
    | _ => rfl
  | nv =>
    cases k with
    | nv => exact getElem?_set_of_target_ne hne
    | _ => rfl
  | zx =>
    cases k with
    | zx => exact getElem?_set_of_target_ne hne
    | _ => rfl
  | ct =>
    cases k with
    | ct => exact getElem?_set_of_target_ne hne
    | _ => rfl

theorem exec_keeps_other_instances {i : Instr} {s t : State} (h : exec i s = .next t) {k : Block} {inst : Nat}
    (hne : writeTarget i ≠ some (k, inst)) : sameInstance k inst s t := by
  have hanswer := exec_answers i s
  rw [h] at hanswer
  cases hanswer with
  | error => exact sameInstance_answer_right.2 (sameInstance_refl k inst s)
  | ok hu d => exact sameInstance_answer_right.2 (hu.sameInstance hne)

/-- Settles O19, block by block. -/
theorem onlyTheAddressedInstanceChanges : Obligations.OnlyTheAddressedInstanceChanges := fun _ _ _ h =>
  ⟨fun _ hne => exec_keeps_other_instances h hne, fun _ hne => exec_keeps_other_instances h hne,
    fun _ hne => exec_keeps_other_instances h hne, fun _ hne => exec_keeps_other_instances h hne,
    fun _ hne => exec_keeps_other_instances h hne⟩

/-! ### What a command's answer and effect depend on (R20, R216, R253) -/

/-- Two results give the same response and the same registers in `inst` of block `k`. -/
inductive AgreeOn (k : Block) (inst : Nat) : Result → Result → Prop where
  | answer {u u' : State} (st : Status) (d : Word) (h : sameInstance k inst u u') :
      AgreeOn k inst (.next (u.answer st d)) (.next (u'.answer st d))

theorem AgreeOn.elim {k : Block} {inst : Nat} {o o' : Result} {t t' : State} (h : AgreeOn k inst o o')
    (ht : o = .next t) (ht' : o' = .next t') : t'.port = t.port ∧ sameInstance k inst t t' := by
  cases h with
  | answer st d hu =>
    cases ht
    cases ht'
    exact ⟨rfl, sameInstance_answer_left.2 (sameInstance_answer_right.2 hu)⟩

section
variable {s s' : State} {inst instb : Nat}

/-- Lists that agree at an index agree there after the same write. -/
theorem getElem?_set_congr {α : Type} {l l' : List α} {i : Nat} (h : l'[i]? = l[i]?) (x : α) :
    (l'.set i x)[i]? = (l.set i x)[i]? := by
  rw [List.getElem?_set_self', List.getElem?_set_self', h]

/-- Lists that agree at an index are both too short for it if one is. -/
theorem length_le_congr {α : Type} {l l' : List α} {i : Nat} (h : l'[i]? = l[i]?) (hlen : l.length ≤ i) :
    l'.length ≤ i :=
  List.getElem?_eq_none_iff.1 (h.trans (List.getElem?_eq_none_iff.2 hlen))

theorem onPwc_agree (hs : sameInstance .pwc inst s s') {f f' : PwcRegs → PwcRegs × Word} (hf : f' = f) :
    AgreeOn .pwc inst (onPwc inst s f) (onPwc inst s' f') := by
  subst hf
  rcases getElem?_cases s.pwc inst with ⟨r, hr⟩ | hlen
  · rw [onPwc_some _ hr, onPwc_some _ (hs.trans hr)]
    exact .answer _ _ (getElem?_set_congr hs _)
  · rw [onPwc_none _ hlen, onPwc_none _ (length_le_congr hs hlen)]
    exact .answer _ _ hs

theorem onNec_agree (hs : sameInstance .nec inst s s') {f f' : NecRegs → NecRegs × Word} (hf : f' = f) :
    AgreeOn .nec inst (onNec inst s f) (onNec inst s' f') := by
  subst hf
  rcases getElem?_cases s.nec inst with ⟨r, hr⟩ | hlen
  · rw [onNec_some _ hr, onNec_some _ (hs.trans hr)]
    exact .answer _ _ (getElem?_set_congr hs _)
  · rw [onNec_none _ hlen, onNec_none _ (length_le_congr hs hlen)]
    exact .answer _ _ hs

theorem onNv_agree (hs : sameInstance .nv inst s s') {f f' : NvRegs → NvRegs × Word} (hf : f' = f) :
    AgreeOn .nv inst (onNv inst s f) (onNv inst s' f') := by
  subst hf
  rcases getElem?_cases s.nv inst with ⟨r, hr⟩ | hlen
  · rw [onNv_some _ hr, onNv_some _ (hs.trans hr)]
    exact .answer _ _ (getElem?_set_congr hs _)
  · rw [onNv_none _ hlen, onNv_none _ (length_le_congr hs hlen)]
    exact .answer _ _ hs

theorem onZx_agree (hs : sameInstance .zx inst s s') {f f' : ZxRegs → ZxRegs × Word} (hf : f' = f) :
    AgreeOn .zx inst (onZx inst s f) (onZx inst s' f') := by
  subst hf
  rcases getElem?_cases s.zx inst with ⟨r, hr⟩ | hlen
  · rw [onZx_some _ hr, onZx_some _ (hs.trans hr)]
    exact .answer _ _ (getElem?_set_congr hs _)
  · rw [onZx_none _ hlen, onZx_none _ (length_le_congr hs hlen)]
    exact .answer _ _ hs

theorem onCt_agree (hs : sameInstance .ct inst s s') {f f' : CtRegs → CtRegs × Word} (hf : f' = f) :
    AgreeOn .ct inst (onCt inst s f) (onCt inst s' f') := by
  subst hf
  rcases getElem?_cases s.ct inst with ⟨r, hr⟩ | hlen
  · rw [onCt_some _ hr, onCt_some _ (hs.trans hr)]
    exact .answer _ _ (getElem?_set_congr hs _)
  · rw [onCt_none _ hlen, onCt_none _ (length_le_congr hs hlen)]
    exact .answer _ _ hs

theorem readCt_agree (hs : sameInstance .ct inst s s') {f f' : CtRegs → Word} (hf : f' = f) :
    AgreeOn .ct inst (readCt inst s f) (readCt inst s' f') := by
  subst hf
  rcases getElem?_cases s.ct inst with ⟨r, hr⟩ | hlen
  · rw [readCt_some _ hr, readCt_some _ (hs.trans hr)]
    exact .answer _ _ hs
  · rw [readCt_none _ hlen, readCt_none _ (length_le_congr hs hlen)]
    exact .answer _ _ hs

/-- A comparison of two trackers reads those two alone (R216). -/
theorem readTwoCt_agree (hs : sameInstance .ct inst s s') (hsb : sameInstance .ct instb s s')
    {f f' : CtRegs → CtRegs → Word} (hf : f' = f) :
    AgreeOn .ct inst (readTwoCt inst instb s f) (readTwoCt inst instb s' f') := by
  subst hf
  rcases getElem?_cases s.ct inst with ⟨x, hx⟩ | hlen
  · rcases getElem?_cases s.ct instb with ⟨y, hy⟩ | hlenb
    · rw [readTwoCt_some _ hx hy, readTwoCt_some _ (hs.trans hx) (hsb.trans hy)]
      exact .answer _ _ hs
    · rw [readTwoCt_none _ (.inr hlenb), readTwoCt_none _ (.inr (length_le_congr hsb hlenb))]
      exact .answer _ _ hs
  · rw [readTwoCt_none _ (.inl hlen), readTwoCt_none _ (.inl (length_le_congr hs hlen))]
    exact .answer _ _ hs

/-- A row's read value is a function of the parameters and the registers it addresses. -/
theorem State.readReg_congr {g : Reg} (hp : s'.params = s.params) (hs : sameInstance g.block inst s s') :
    s'.readReg g inst = s.readReg g inst := by
  cases g <;> simp_all only [State.readReg, sameInstance, Reg.block]

/-- Two states with the same registers in `inst` of a block both have it or both lack it. -/
theorem State.count_le_congr {g : Reg} (hp : s'.params = s.params) (hs : sameInstance g.block inst s s') :
    s'.count g.block ≤ inst ↔ s.count g.block ≤ inst := by
  rw [← State.readReg_eq_none_iff, ← State.readReg_eq_none_iff, State.readReg_congr hp hs]

theorem State.writeReg_sameInstance {g : Reg} (hp : s'.params = s.params) (hs : sameInstance g.block inst s s')
    (b : Word) : sameInstance g.block inst (s.writeReg g inst b) (s'.writeReg g inst b) := by
  cases g <;> simp_all only [State.writeReg, sameInstance, Reg.block, List.getElem?_modify]

theorem execRegRd_agree {g : Reg} (hp : s'.params = s.params) (hs : sameInstance g.block inst s s') :
    AgreeOn g.block inst (execRegRd inst g.address s) (execRegRd inst g.address s') := by
  simp only [execRegRd, lookupReg_address, State.readReg_congr hp hs]
  cases s.readReg g inst with
  | none => exact .answer _ _ hs
  | some v => exact .answer _ _ hs

theorem execRegWr_agree {g : Reg} (hp : s'.params = s.params) (hs : sameInstance g.block inst s s') (b : Word) :
    AgreeOn g.block inst (execRegWr inst g.address b s) (execRegWr inst g.address b s') := by
  simp only [execRegWr, lookupReg_address, State.count_le_congr hp hs]
  split
  · exact .answer _ _ hs
  · split
    · exact .answer _ _ (State.writeReg_sameInstance hp hs b)
    · exact .answer _ _ hs

/-- A command on `inst` of block `k` alone answers and does the same in two states that agree on the parameters and
there: its effect is the same function of both. -/
theorem exec_agree {k : Block} {g : Reg} {i : Instr} {a b : Word} {level : Bool} (hp : s'.params = s.params)
    (hg : g.block = k) (hi : i ∈ instanceCommands k inst g a b level) (hs : sameInstance k inst s s') :
    AgreeOn k inst (exec i s) (exec i s') := by
  rcases List.mem_append.1 hi with hown | hreg
  · cases k
    all_goals simp only [List.mem_cons, List.not_mem_nil, or_false] at hown
    case pwc =>
      rcases hown with rfl | rfl
      · exact onPwc_agree hs (by rw [hp])
      · exact onPwc_agree hs (by rw [hp])
    case nec =>
      rcases hown with rfl | rfl
      · exact onNec_agree hs rfl
      · exact onNec_agree hs (by rw [hp])
    case nv =>
      rcases hown with rfl | rfl | rfl
      · exact onNv_agree hs rfl
      · exact onNv_agree hs (by rw [hp])
      · exact onNv_agree hs (by rw [hp])
    case zx =>
      rcases hown with rfl | rfl
      · exact onZx_agree hs (by rw [hp])
      · exact onZx_agree hs (by rw [hp])
    case ct =>
      rcases hown with rfl | rfl | rfl | rfl | rfl | rfl
      · exact onCt_agree hs rfl
      · exact onCt_agree hs (by rw [hp])
      · exact readCt_agree hs (by rw [hp])
      · exact readCt_agree hs (by rw [hp])
      · exact readCt_agree hs (by rw [hp])
      · exact readCt_agree hs (by rw [hp])
  · subst hg
    simp only [List.mem_cons, List.not_mem_nil, or_false] at hreg
    rcases hreg with rfl | rfl
    · exact execRegRd_agree hp hs
    · exact execRegWr_agree hp hs b

end

/-- Settles O20: what addresses one sub-block's registers by `exec_agree`, the comparisons of two trackers by
`readTwoCt_agree`; the validators read the parameters alone. -/
theorem resultDependsOnTheInstanceAlone : Obligations.ResultDependsOnTheInstanceAlone := by
  intro s s' t t' inst instb a b level hp
  refine ⟨fun k g i hg hi hs ht ht' => (exec_agree hp hg hi hs).elim ht ht', fun i hi hs hsb ht ht' => ?_,
    fun i hi ht ht' => ?_⟩
  · simp only [List.mem_cons, List.not_mem_nil, or_false] at hi
    have hagree : AgreeOn .ct inst (exec i s) (exec i s') := by
      rcases hi with rfl | rfl
      · exact readTwoCt_agree hs hsb (by rw [hp])
      · exact readTwoCt_agree hs hsb (by rw [hp])
    exact (hagree.elim ht ht').1
  · simp only [List.mem_cons, List.not_mem_nil, or_false] at hi
    rcases hi with rfl | rfl
    · cases ht
      cases ht'
      simp only [State.answer_port, hp]
    · cases ht
      cases ht'
      rfl

/-! ### The stage after a mark (R34, R203, R206) -/

theorem CtRegs.lifecycle_eq_unseen_iff (p : Params) (r : CtRegs) :
    r.lifecycle p = .unseen ↔ sVal p.tw r.cycle = 0 := by
  unfold CtRegs.lifecycle
  split_ifs <;> simp_all

theorem CtRegs.lifecycle_eq_oneSample_iff (p : Params) (r : CtRegs) :
    r.lifecycle p = .oneSample ↔ sVal p.tw r.cycle < 0 := by
  unfold CtRegs.lifecycle
  split_ifs <;> simp_all

theorem CtRegs.lifecycle_eq_running_iff (p : Params) (r : CtRegs) :
    r.lifecycle p = .running ↔ 0 < sVal p.tw r.cycle := by
  unfold CtRegs.lifecycle
  split_ifs <;> simp_all <;> omega

@[simp] theorem CtRegs.mark_lastMark (p : Params) (t : TimeReg) (r : CtRegs) : (r.mark p t).lastMark = t := by
  unfold CtRegs.mark
  split <;> rfl

/-- The first mark (R203). -/
theorem CtRegs.mark_of_unseen {p : Params} {r : CtRegs} (h : r.lifecycle p = .unseen) (t : TimeReg) :
    r.mark p t = { r with cycle := wrapTo p.tw (-1), lastMark := t } := by
  simp only [CtRegs.mark, h]

/-- Any later mark measures the interval, the second and the running ones alike (R204, R205). -/
theorem CtRegs.mark_cycle_of_seen {p : Params} {r : CtRegs} (h : r.lifecycle p ≠ .unseen) (t : TimeReg) :
    (r.mark p t).cycle = wrapTo p.tw (interval p.tw t r.lastMark) := by
  unfold CtRegs.mark
  split
  next hu => exact absurd hu h
  next => rfl
  next => rfl

/-- The first mark leaves CYCLE at −1, so the stage is OneSample (R203). -/
theorem CtRegs.mark_lifecycle_of_unseen {p : Params} {r : CtRegs} (hp : p.legal = true)
    (h : r.lifecycle p = .unseen) (t : TimeReg) : (r.mark p t).lifecycle p = .oneSample := by
  obtain ⟨hlo, hhi, -, -⟩ := p.legal_iff.1 hp
  have hpow : (0 : Int) < 2 ^ (p.tw - 1) := by positivity
  rw [lifecycle_eq_oneSample_iff, mark_of_unseen h,
    sVal_wrapTo_of_range (by omega) hhi (by omega) (by omega)]
  decide

/-- Any later mark leaves CYCLE at the interval, read signed (R206). -/
theorem CtRegs.sVal_mark_cycle_of_seen {p : Params} {r : CtRegs} (hp : p.legal = true)
    (h : r.lifecycle p ≠ .unseen) (t : TimeReg) :
    sVal p.tw (r.mark p t).cycle = interval p.tw t r.lastMark := by
  obtain ⟨hlo, hhi, -, -⟩ := p.legal_iff.1 hp
  rw [mark_cycle_of_seen h, sVal_wrapTo_of_range (by omega) hhi (neg_le_interval ..) (interval_lt ..)]

theorem execCtUpdate_some {s : State} {inst : Nat} {r : CtRegs} (h : s.ct[inst]? = some r) (a : Word) :
    exec (.ctUpdate inst a) s = .next ((s.setCt inst (r.mark s.params (timeOperand s.params a))).answer .ok 0) :=
  onCt_some _ h

theorem getElem?_ct_setCt {s : State} {inst : Nat} {r : CtRegs} (h : s.ct[inst]? = some r) (r' : CtRegs) :
    (s.setCt inst r').ct[inst]? = some r' :=
  List.getElem?_set_self (List.getElem?_eq_some_iff.1 h).1

/-- Settles O47: the first mark leaves OneSample, and any other leaves the interval in CYCLE, whose sign is the stage. -/
theorem ctStageAfterMark : Obligations.CtStageAfterMark := by
  intro s u inst a r n hp hr hn hu
  obtain ⟨-, htw, -, -⟩ := s.params.legal_iff.1 hp
  rw [execCtUpdate_some hr] at hu
  cases hu
  refine ⟨r.mark s.params (timeOperand s.params a), getElem?_ct_setCt hr _, CtRegs.mark_lastMark .., fun hunseen => ?_,
    fun hseen => ?_⟩
  · exact ⟨CtRegs.mark_lifecycle_of_unseen hp hunseen _, by rw [CtRegs.mark_of_unseen hunseen]⟩
  · have hcycle : sVal s.params.tw (r.mark s.params (timeOperand s.params a)).cycle = n := by
      rw [CtRegs.sVal_mark_cycle_of_seen hp hseen, interval_timeOperand htw, hn]
    rw [CtRegs.lifecycle_eq_unseen_iff, CtRegs.lifecycle_eq_oneSample_iff, CtRegs.lifecycle_eq_running_iff, hcycle]
    exact ⟨rfl, id, id, id⟩

end Sys2Proof.Machine
end

section
/-! PROOFS. The register access statements (20_memory.md R62, R68): the commands that only read, and REG_RD after
REG_WR. -/

namespace Sys2Proof.Machine

/-! ### The reading commands (R68) -/

/-- A command with no write target ends, in an error or in OK, with a response on the port and nothing else changed. -/
theorem exec_of_writeTarget_eq_none {i : Instr} {s t : State} (hi : writeTarget i = none) (h : exec i s = .next t) :
    t = { s with port := t.port } := by
  have hanswer := exec_answers i s
  rw [hi, h] at hanswer
  cases hanswer with
  | error => rfl
  | ok hu => cases hu; rfl

/-- Settles O21: none of the nine commands has a write target. -/
theorem readersHaveNoSideEffect : Obligations.ReadersHaveNoSideEffect := by
  intro s t inst instb a b i hi h
  have htarget : writeTarget i = none := by
    simp only [List.mem_cons, List.not_mem_nil, or_false] at hi
    rcases hi with rfl | rfl | rfl | rfl | rfl | rfl | rfl | rfl | rfl <;> rfl
  exact exec_of_writeTarget_eq_none htarget h

/-! ### The rows an address names, and the RW rows (R61, R62) -/

/-- A word is its address fields `{A[31:12], BLK, REG}` side by side (R61). -/
theorem eq_addressFields (a : Word) : a = a.extractLsb' 12 20 ++ a.extractLsb' 8 4 ++ a.extractLsb' 0 8 := by
  ext i
  grind

/-- An address names a row exactly where it is the row's address (R61). -/
theorem lookupReg_eq_some_iff {a : Word} {g : Reg} : lookupReg a = some g ↔ a = g.address := by
  refine ⟨fun h => ?_, fun h => h ▸ lookupReg_address g⟩
  unfold lookupReg at h
  split at h
  next hzero =>
    have hhigh : a.extractLsb' 12 20 = 0#20 := hzero
    have hrow := List.find?_some h
    simp only [Bool.and_eq_true, beq_iff_eq] at hrow
    obtain ⟨hblk, hreg⟩ := hrow
    rw [Reg.address, hblk, hreg, ← hhigh, ← eq_addressFields]
  next => cases h

/-- What a read of an RW row answers where its field holds the operand `b` cut to the field's width: MIN and MAX of the
PWC are signed, E has 4 bits (R62). -/
def Reg.storedValue (g : Reg) (p : Params) (b : Word) : Word :=
  match g with
  | .pwcMin | .pwcMax => sextTo 32 p.tw b
  | .ctE => zext32 4 b
  | _ => zext32 p.tw b

/-- The stored value by the addresses of the rows. -/
theorem Reg.storedValue_eq (g : Reg) (p : Params) (b : Word) :
    g.storedValue p b =
      if g.address = 0x000 ∨ g.address = 0x001 then (b.setWidth p.tw).signExtend 32
      else if g.address = 0x400 then (b.setWidth 4).setWidth 32
      else (b.setWidth p.tw).setWidth 32 := by
  cases g <;> rfl

/-! ### Reading what was written (R230, R232) -/

/-- A field that keeps a pattern's low bits reads, zero-extended or sign-extended, as the pattern does. -/
theorem zext32_lowBits {n w m : Nat} (h : n ≤ m) (v : BitVec w) : zext32 n (lowBits n v : BitVec m) = zext32 n v := by
  simp only [zext32, lowBits, BitVec.setWidth_setWidth_of_le _ h, BitVec.setWidth_eq]

theorem sextTo_lowBits {k n w m : Nat} (h : n ≤ m) (v : BitVec w) :
    sextTo k n (lowBits n v : BitVec m) = sextTo k n v := by
  simp only [sextTo, lowBits, BitVec.setWidth_setWidth_of_le _ h, BitVec.setWidth_eq]

theorem zext32_setWidth {n w : Nat} (v : BitVec w) : zext32 n (v.setWidth n) = zext32 n v := by
  simp only [zext32, BitVec.setWidth_eq]

/-- An element modified to something that reads `v` reads `v`, where there is an element. -/
theorem map_getElem?_modify {α β : Type} {l : List α} {i : Nat} {f : α → α} {read : α → β} {v : β}
    (h : ∀ r, read (f r) = v) : ((l.modify i f)[i]?).map read = (l[i]?.map read).map fun _ => v := by
  simp only [List.getElem?_modify_eq, Option.map_eq_map, Option.map_map, Function.comp_def, h]

@[simp] theorem State.readReg_answer (s : State) (st : Status) (d : Word) (g : Reg) (inst : Nat) :
    (s.answer st d).readReg g inst = s.readReg g inst := by
  cases g <;> rfl

/-- After a write to an RW row, the row reads as the stored operand wherever it could be read before. -/
theorem State.readReg_writeReg_same {s : State} {g : Reg} (htw : s.params.tw ≤ 32) (hg : g.access = .rw) (inst : Nat)
    (b : Word) :
    (s.writeReg g inst b).readReg g inst = (s.readReg g inst).map fun _ => g.storedValue s.params b := by
  cases g
  case pwcMin | pwcMax => exact map_getElem?_modify fun _ => sextTo_lowBits htw b
  case necHdr | necOne | necZero | necTol | nvIdle => exact map_getElem?_modify fun _ => zext32_lowBits htw b
  case ctE => exact map_getElem?_modify fun _ => zext32_setWidth b
  all_goals cases hg

theorem execRegRd_some {s : State} {g : Reg} {inst : Nat} {v : Word} (h : s.readReg g inst = some v) :
    exec (.regRd inst g.address) s = .next (s.answer .ok v) := by
  show execRegRd inst g.address s = _
  simp only [execRegRd, lookupReg_address, h, respond_eq]

/-- REG_WR answers OK only on an RW row whose block has the index, and has then done the write effect (R232). -/
theorem execRegWr_ok {s t : State} {inst : Nat} {a b d : Word} (h : exec (.regWr inst a b) s = .next t)
    (hok : t.port = .answered ⟨.ok, d⟩) :
    ∃ g, a = g.address ∧ inst < s.count g.block ∧ g.access = .rw ∧ t = (s.writeReg g inst b).answer .ok 0 := by
  change execRegWr inst a b s = .next t at h
  unfold execRegWr at h
  cases hrow : lookupReg a with
  | none =>
    rw [hrow] at h
    cases h
    cases hok
  | some g =>
    simp only [hrow] at h
    split at h
    next =>
      cases h
      cases hok
    next hinst =>
      split at h
      next hrw =>
        cases h
        exact ⟨g, lookupReg_eq_some_iff.1 hrow, Nat.lt_of_not_le hinst, hrw, rfl⟩
      next =>
        cases h
        cases hok

/-- Settles O57: the write was the effect on an RW row that can be read, and that row reads as what it stored. -/
theorem regWriteThenRead : Obligations.RegWriteThenRead := by
  intro s t inst a b hp hwrite hok
  obtain ⟨-, htw, -, -⟩ := s.params.legal_iff.1 hp
  obtain ⟨g, rfl, hinst, hrw, rfl⟩ := execRegWr_ok hwrite hok
  obtain ⟨v, hv⟩ : ∃ v, s.readReg g inst = some v :=
    Option.ne_none_iff_exists'.1 fun hnone => hinst.not_ge ((s.readReg_eq_none_iff g inst).1 hnone)
  have hread : ((s.writeReg g inst b).answer .ok 0).readReg g inst = some (g.storedValue s.params b) := by
    rw [State.readReg_answer, State.readReg_writeReg_same htw hrw, hv, Option.map_some]
  rw [execRegRd_some hread, Reg.storedValue_eq]
  rfl

end Sys2Proof.Machine
end

section
/-! PROOFS. The encoding and port statements (30_encoding.md): decoding and encoding agree, the illegal headers, the
latency of a command, a held response, and `nec.cfg`. -/

namespace Sys2Proof

/-! ### The fields of a header (R81) -/

/-- INST of an instruction, 0 where it has none (R81, R88). -/
def Instr.instField : Instr → Nat
  | .necCheck _ | .necCheckext _ => 0
  | .pwcSetwin inst _ _ | .pwcClassify inst _ | .necInit inst | .necEdge inst _ | .nvInit inst
  | .nvEdge inst _ _ | .nvIdle inst _ | .zxInit inst _ _ | .zxFeed inst _ _ | .ctInit inst | .ctUpdate inst _
  | .ctIsvalid inst | .ctIsrotating inst _ _ | .ctCycleus inst | .ctSmoothus inst | .ctSpeedclose inst _ _
  | .ctAvgclose inst _ _ | .regRd inst _ | .regWr inst _ _ => inst

/-- INSTB of an instruction, 0 outside the comparisons of two trackers (R81, R87). -/
def Instr.instbField : Instr → Nat
  | .ctSpeedclose _ instb _ | .ctAvgclose _ instb _ => instb
  | _ => 0

theorem Instr.wf_iff (i : Instr) : i.wf = true ↔ i.instField < 16 ∧ i.instbField < 16 := by
  cases i <;> simp [Instr.wf, Instr.instField, Instr.instbField]

theorem Instr.opcode_lt (i : Instr) : i.opcode < 32 := by
  cases i <;> simp [Instr.opcode]

theorem encode_hdr (i : Instr) : (encode i).hdr = header i.opcode i.instbField i.instField := by
  cases i <;> rfl

/-- A header is made of its fields where RSV is zero. -/
theorem Command.hdr_eq_header {c : Command} (h : c.rsv = 0) : c.hdr = header c.opc c.instb c.inst := by
  apply BitVec.eq_of_toNat_eq
  simp only [Command.opc, Command.rsv, Command.instb, Command.inst, header, BitVec.extractLsb'_toNat,
    BitVec.toNat_ofNat, Nat.shiftRight_eq_div_pow] at h ⊢
  omega

theorem Command.opc_lt (c : Command) : c.opc < 32 := BitVec.isLt _
theorem Command.instb_lt (c : Command) : c.instb < 16 := BitVec.isLt _
theorem Command.inst_lt (c : Command) : c.inst < 16 := BitVec.isLt _

/-- The header of a command carries the fields of `i` (R81). -/
structure Command.HasFieldsOf (c : Command) (i : Instr) : Prop where
  rsv : c.rsv = 0
  opc : c.opc = i.opcode
  instb : c.instb = i.instbField
  inst : c.inst = i.instField

theorem encode_hasFieldsOf {i : Instr} (h : i.wf = true) : (encode i).HasFieldsOf i := by
  obtain ⟨hinst, hinstb⟩ := i.wf_iff.1 h
  obtain ⟨hopc, hrsv, hb, hi⟩ := header_fields i.opcode_lt hinstb hinst (encode i).a (encode i).b
  rw [← encode_hdr] at hopc hrsv hb hi
  exact ⟨hrsv, hopc, hb, hi⟩

/-! ### The decoder by its checks (R84 to R88) -/

theorem decode_of_rsv {c : Command} (h : c.rsv = 0) : decode c = decodeOpcode c := if_pos h

theorem oneInst_of_instb {c : Command} (h : c.instb = 0) (i : Instr) : oneInst c i = .ok i := if_pos h

theorem noInst_of_fields {c : Command} (hb : c.instb = 0) (hi : c.inst = 0) (i : Instr) : noInst c i = .ok i := by
  rw [noInst, if_pos hb, if_pos hi]

/-- The level operand is read back from word B (R82). -/
theorem getLsbD_levelWord (level : Bool) : (levelWord level).getLsbD 0 = level := by cases level <;> decide

/-- The opcode map reads an instruction's row back from its fields and operand words. -/
theorem decodeOpcode_encode {i : Instr} (h : (encode i).HasFieldsOf i) : decodeOpcode (encode i) = .ok i := by
  obtain ⟨-, hopc, hinstb, hinst⟩ := h
  cases i with
  | necCheck | necCheckext =>
    simp only [decodeOpcode, hopc, Instr.opcode]
    exact noInst_of_fields hinstb hinst _
  | ctSpeedclose | ctAvgclose =>
    simp only [decodeOpcode, hopc, hinstb, hinst, Instr.opcode]
    rfl
  | nvEdge inst a level =>
    have hlevel : (encode (.nvEdge inst a level)).level = level := getLsbD_levelWord level
    simp only [decodeOpcode, hopc, hinst, hlevel, Instr.opcode]
    exact oneInst_of_instb hinstb _
  | _ =>
    simp only [decodeOpcode, hopc, hinst, Instr.opcode]
    exact oneInst_of_instb hinstb _

/-- Settles O1: an encoding carries its instruction's fields (`encode_hasFieldsOf`), from which the opcode map reads its
row back (`decodeOpcode_encode`). -/
theorem decodeEncodeRoundTrip : Obligations.DecodeEncodeRoundTrip := fun _ hwf =>
  have h := encode_hasFieldsOf hwf
  (decode_of_rsv h.rsv).trans (decodeOpcode_encode h)

/-! ### An accepted header (R84, R89) -/

theorem decode_eq_ok_iff {c : Command} {i : Instr} : decode c = .ok i ↔ c.rsv = 0 ∧ decodeOpcode c = .ok i := by
  unfold decode
  split <;> simp_all

/-- A row that requires INSTB = 0000 accepts fields of an instruction without INSTB (R87). -/
theorem hasFieldsOf_of_oneInst {c : Command} {i j : Instr} (h : oneInst c i = .ok j) (hrsv : c.rsv = 0)
    (hopc : c.opc = i.opcode) (hinst : c.inst = i.instField) (hinstb : i.instbField = 0) : c.HasFieldsOf j := by
  unfold oneInst at h
  split at h
  next hzero =>
    cases h
    exact ⟨hrsv, hopc, hzero.trans hinstb.symm, hinst⟩
  next => cases h

/-- A row that requires INSTB = INST = 0000 accepts fields of an instruction without either (R87, R88). -/
theorem hasFieldsOf_of_noInst {c : Command} {i j : Instr} (h : noInst c i = .ok j) (hrsv : c.rsv = 0)
    (hopc : c.opc = i.opcode) (hinst : i.instField = 0) (hinstb : i.instbField = 0) : c.HasFieldsOf j := by
  unfold noInst at h
  split_ifs at h with hzero hzero'
  cases h
  exact ⟨hrsv, hopc, hzero.trans hinstb.symm, hzero'.trans hinst.symm⟩

/-- What an accepted header decodes to has the header's fields. The cases are numbered as the rows of `decodeOpcode`. -/
theorem hasFieldsOf_of_decode {c : Command} {i : Instr} (h : decode c = .ok i) : c.HasFieldsOf i := by
  obtain ⟨hrsv, h⟩ := decode_eq_ok_iff.1 h
  unfold decodeOpcode at h
  split at h
  case h_5 hopc | h_6 hopc => exact hasFieldsOf_of_noInst h hrsv hopc rfl rfl
  case h_18 hopc | h_19 hopc =>
    cases h
    exact ⟨hrsv, hopc, rfl, rfl⟩
  case h_22 => cases h
  all_goals exact hasFieldsOf_of_oneInst h hrsv ‹_› rfl rfl

/-- Settles O2: what a header decodes to has the header's fields (`hasFieldsOf_of_decode`), which are in range and make the
header up (`Command.hdr_eq_header`). -/
theorem decodedHeaderReencodes : Obligations.DecodedHeaderReencodes := by
  intro c i h
  obtain ⟨hrsv, hopc, hinstb, hinst⟩ := hasFieldsOf_of_decode h
  constructor
  · exact i.wf_iff.2 ⟨hinst ▸ c.inst_lt, hinstb ▸ c.instb_lt⟩
  · rw [encode_hdr, ← hopc, ← hinstb, ← hinst, c.hdr_eq_header hrsv]

/-! ### The illegal headers (R85 to R88) -/

theorem exists_oneInst_eq_error_iff {c : Command} {i : Instr} :
    (∃ e, oneInst c i = .error e) ↔ c.instb ≠ 0 := by
  unfold oneInst
  split <;> simp_all

theorem exists_noInst_eq_error_iff {c : Command} {i : Instr} :
    (∃ e, noInst c i = .error e) ↔ c.instb ≠ 0 ∨ c.inst ≠ 0 := by
  unfold noInst
  split_ifs <;> simp_all

theorem exists_decode_eq_error_iff {c : Command} :
    (∃ e, decode c = .error e) ↔ c.rsv ≠ 0 ∨ ∃ e, decodeOpcode c = .error e := by
  unfold decode
  split <;> simp_all

/-- The reserved values of OPC (R85). -/
def reservedOpcodes : List Nat := [0x00, 0x03, 0x0B, 0x0E, 0x0F, 0x18, 0x19, 0x1A, 0x1B, 0x1C, 0x1D]

/-- The fields the opcode map refuses: a reserved OPC (R85), INSTB outside the comparisons of two trackers (R87), INST
on a validator (R88). -/
def Command.badFields (c : Command) : Prop :=
  c.opc ∈ reservedOpcodes ∨ (c.instb ≠ 0 ∧ c.opc ≠ 0x16 ∧ c.opc ≠ 0x17) ∨
  (c.inst ≠ 0 ∧ (c.opc = 0x06 ∨ c.opc = 0x07))

/-- The opcode map refuses exactly the bad fields. The cases are numbered as the rows of `decodeOpcode`. -/
theorem exists_decodeOpcode_eq_error_iff {c : Command} :
    (∃ e, decodeOpcode c = .error e) ↔ c.badFields := by
  unfold decodeOpcode
  split
  case h_22 =>
    have hlt := c.opc_lt
    have hmem : c.opc ∈ reservedOpcodes := by
      simp only [imp_false] at *
      simp only [reservedOpcodes, List.mem_cons, List.not_mem_nil, or_false]
      omega
    simp [Command.badFields, hmem]
  case h_18 hopc | h_19 hopc => simp [Command.badFields, reservedOpcodes, hopc]
  case h_5 hopc | h_6 hopc => simp [Command.badFields, reservedOpcodes, hopc, exists_noInst_eq_error_iff]
  all_goals simp [Command.badFields, reservedOpcodes, exists_oneInst_eq_error_iff, *]

end Sys2Proof

namespace Sys2Proof.Machine

/-- The illegal headers by the numbers of their fields. -/
theorem illegalHeader_iff (c : Command) : illegalHeader c.hdr ↔ c.rsv ≠ 0 ∨ c.badFields := by
  simp only [illegalHeader, Command.badFields, Command.rsv, Command.opc, Command.instb, Command.inst, reservedOpcodes,
    List.mem_cons, List.not_mem_nil, or_false, ne_eq, ← BitVec.toNat_inj]
  rfl

/-- Settles O3: the decoder's checks are those on the fields of an illegal header, and a rejected command answers ERR_OPC
(`runCommand_of_reject`). -/
theorem illegalHeadersRaiseErrOpc : Obligations.IllegalHeadersRaiseErrOpc := by
  intro s c
  have hiff : (∃ e, decode c = .error e) ↔ illegalHeader c.hdr := by
    rw [exists_decode_eq_error_iff, exists_decodeOpcode_eq_error_iff, illegalHeader_iff]
  refine ⟨hiff, fun h => ?_⟩
  obtain ⟨e, he⟩ := hiff.2 h
  exact runCommand_of_reject he s

/-- Settles O4, by decoding the nine words. -/
theorem headerPatternsDecode : Obligations.HeaderPatternsDecode :=
  ⟨by decide, by decide, by decide, by decide, by decide, by decide, by decide, by decide, by decide⟩

/-! ### A command does not depend on the port's state or on the commands yet to come -/

/-- The same registers under another handshake state, with other commands yet to come. -/
def State.withHost (s : State) (q : Port) (cs : List Command) : State := { s with port := q, pending := cs }

/-- A result with other commands yet to come. -/
def withPending (cs : List Command) : Result → Result
  | .next t => .next { t with pending := cs }
  | .fault r => .fault r
  | .refused r => .refused r

@[simp] theorem State.withHost_count (s : State) (q : Port) (cs : List Command) (k : Block) :
    (s.withHost q cs).count k = s.count k := by cases k <;> rfl
@[simp] theorem State.withHost_readReg (s : State) (q : Port) (cs : List Command) (g : Reg) (inst : Nat) :
    (s.withHost q cs).readReg g inst = s.readReg g inst := by cases g <;> rfl
@[simp] theorem State.withHost_writeReg (s : State) (q : Port) (cs : List Command) (g : Reg) (inst : Nat) (b : Word) :
    (s.withHost q cs).writeReg g inst b = (s.writeReg g inst b).withHost q cs := by cases g <;> rfl

section
variable (s : State) (q : Port) (cs : List Command) (inst instb : Nat)

/-- An answer overwrites the handshake state. -/
theorem answer_withHost (st : Status) (d : Word) :
    Host.Outcome.next ((s.withHost q cs).answer st d) = withPending cs (.next (s.answer st d)) := rfl

theorem onPwc_withHost (f : PwcRegs → PwcRegs × Word) :
    onPwc inst (s.withHost q cs) f = withPending cs (onPwc inst s f) := by
  rcases getElem?_cases s.pwc inst with ⟨r, hr⟩ | hlen
  · rw [onPwc_some f hr]; exact onPwc_some f hr
  · rw [onPwc_none f hlen]; exact onPwc_none f hlen

theorem onNec_withHost (f : NecRegs → NecRegs × Word) :
    onNec inst (s.withHost q cs) f = withPending cs (onNec inst s f) := by
  rcases getElem?_cases s.nec inst with ⟨r, hr⟩ | hlen
  · rw [onNec_some f hr]; exact onNec_some f hr
  · rw [onNec_none f hlen]; exact onNec_none f hlen

theorem onNv_withHost (f : NvRegs → NvRegs × Word) :
    onNv inst (s.withHost q cs) f = withPending cs (onNv inst s f) := by
  rcases getElem?_cases s.nv inst with ⟨r, hr⟩ | hlen
  · rw [onNv_some f hr]; exact onNv_some f hr
  · rw [onNv_none f hlen]; exact onNv_none f hlen

theorem onZx_withHost (f : ZxRegs → ZxRegs × Word) :
    onZx inst (s.withHost q cs) f = withPending cs (onZx inst s f) := by
  rcases getElem?_cases s.zx inst with ⟨r, hr⟩ | hlen
  · rw [onZx_some f hr]; exact onZx_some f hr
  · rw [onZx_none f hlen]; exact onZx_none f hlen

theorem onCt_withHost (f : CtRegs → CtRegs × Word) :
    onCt inst (s.withHost q cs) f = withPending cs (onCt inst s f) := by
  rcases getElem?_cases s.ct inst with ⟨r, hr⟩ | hlen
  · rw [onCt_some f hr]; exact onCt_some f hr
  · rw [onCt_none f hlen]; exact onCt_none f hlen

theorem readCt_withHost (f : CtRegs → Word) :
    readCt inst (s.withHost q cs) f = withPending cs (readCt inst s f) := by
  rcases getElem?_cases s.ct inst with ⟨r, hr⟩ | hlen
  · rw [readCt_some f hr]; exact readCt_some f hr
  · rw [readCt_none f hlen]; exact readCt_none f hlen

theorem readTwoCt_withHost (f : CtRegs → CtRegs → Word) :
    readTwoCt inst instb (s.withHost q cs) f = withPending cs (readTwoCt inst instb s f) := by
  rcases getElem?_cases s.ct inst with ⟨x, hx⟩ | hlen
  · rcases getElem?_cases s.ct instb with ⟨y, hy⟩ | hlenb
    · rw [readTwoCt_some f hx hy]; exact readTwoCt_some f hx hy
    · rw [readTwoCt_none f (.inr hlenb)]; exact readTwoCt_none f (.inr hlenb)
  · rw [readTwoCt_none f (.inl hlen)]; exact readTwoCt_none f (.inl hlen)

theorem execRegRd_withHost (a : Word) :
    execRegRd inst a (s.withHost q cs) = withPending cs (execRegRd inst a s) := by
  unfold execRegRd
  cases lookupReg a with
  | none => rfl
  | some g =>
    simp only [State.withHost_readReg]
    cases s.readReg g inst <;> rfl

theorem execRegWr_withHost (a b : Word) :
    execRegWr inst a b (s.withHost q cs) = withPending cs (execRegWr inst a b s) := by
  unfold execRegWr
  cases lookupReg a with
  | none => rfl
  | some g =>
    simp only [State.withHost_count, State.withHost_writeReg]
    split_ifs <;> rfl

/-- Every command reads and writes registers alone, but for its answer on the port. -/
theorem exec_withHost (i : Instr) : exec i (s.withHost q cs) = withPending cs (exec i s) := by
  cases i with
  | pwcSetwin | pwcClassify => exact onPwc_withHost ..
  | necInit | necEdge => exact onNec_withHost ..
  | necCheck | necCheckext => rfl
  | nvInit | nvEdge | nvIdle => exact onNv_withHost ..
  | zxInit | zxFeed => exact onZx_withHost ..
  | ctInit | ctUpdate => exact onCt_withHost ..
  | ctIsvalid | ctIsrotating | ctCycleus | ctSmoothus => exact readCt_withHost ..
  | ctSpeedclose | ctAvgclose => exact readTwoCt_withHost ..
  | regRd => exact execRegRd_withHost ..
  | regWr => exact execRegWr_withHost ..

/-- A command as presented, an illegal header among them, does so too. -/
theorem runCommand_withHost (c : Command) : runCommand c (s.withHost q cs) = withPending cs (runCommand c s) := by
  cases h : decode c with
  | ok i => simp only [runCommand_of_decode h, exec_withHost]
  | error e => simp only [runCommand_of_reject h, answer_withHost]

end

/-! ### Acceptance, latency, effect (R97, R285) -/

theorem clockEdges_cons {x : Pins} {s u : State} (h : clockEdge x s = .next u) (xs : List Pins) :
    clockEdges (x :: xs) s = clockEdges xs u := by
  simp only [clockEdges, h]

theorem clockEdges_singleton (x : Pins) (s : State) : clockEdges [x] s = clockEdge x s := by
  rw [clockEdges]
  split <;> simp_all [clockEdges]

/-- While a command is in flight, each edge takes one cycle off its latency. -/
theorem clockEdges_busy (s : State) (c : Command) {ys : List Pins} (hrst : ∀ y ∈ ys, y.rst = false) (n : Nat) :
    clockEdges ys { s with port := .busy c (n + ys.length) } = .next { s with port := .busy c n } := by
  induction ys with
  | nil => rfl
  | cons y ys ih =>
    obtain ⟨hy, hys⟩ := List.forall_mem_cons.1 hrst
    rw [clockEdges_cons (clockEdge_busy_succ hy rfl)]
    exact ih hys

/-- At the last edge of its latency the command takes effect. -/
theorem clockEdges_busy_complete (s : State) (c : Command) {ys : List Pins} (hrst : ∀ y ∈ ys, y.rst = false) {n : Nat}
    (hlen : ys.length = n + 1) :
    clockEdges ys { s with port := .busy c n } = runCommand c { s with port := .busy c 0 } := by
  induction n generalizing ys with
  | zero =>
    obtain ⟨y, rfl⟩ := List.length_eq_one_iff.1 hlen
    rw [clockEdges_singleton, clockEdge_busy_zero (hrst y List.mem_cons_self) rfl]
  | succ n ih =>
    obtain ⟨y, ys, rfl⟩ := List.exists_cons_of_length_eq_add_one hlen
    obtain ⟨hy, hys⟩ := List.forall_mem_cons.1 hrst
    rw [clockEdges_cons (clockEdge_busy_succ hy rfl)]
    exact ih hys (Nat.succ.inj hlen)

/-- A step of the idle block performs the host's next command. -/
theorem step_pending {s : State} (h : s.port = .idle) (c : Command) (rest : List Command) :
    step { s with pending := c :: rest } = runCommand c (s.withHost .idle rest) :=
  step_of_fetch (fetchCommand_pending (by simp [h]) rfl)

/-- Settles O11: the edges count the latency down (`clockEdges_busy`), the last one performs the command as the step does,
since a command reads neither the port nor `pending` (`runCommand_withHost`). -/
theorem latencyThenStepEffect : Obligations.LatencyThenStepEffect := by
  intro s t x ys rest hidle hrst hvalid hys hlen hstep
  rw [step_pending hidle] at hstep
  have haccept : clockEdge x s = .next { s with port := .busy x.cmd x.extra } := by
    rw [clockEdge_idle hrst hidle, if_pos hvalid]
  refine ⟨by simp [State.outputs, hidle], fun k hk => ⟨?_, rfl⟩, ?_, ?_⟩
  · have htake : x.extra - k + (ys.take k).length = x.extra := by rw [List.length_take]; omega
    have hwait := clockEdges_busy s x.cmd (ys := ys.take k) (fun y hy => hys y (List.mem_of_mem_take hy)) (x.extra - k)
    rw [htake] at hwait
    rw [clockEdges_cons haccept, hwait]
  · calc clockEdges (x :: ys) s
        = runCommand x.cmd { s with port := .busy x.cmd 0 } := by
          rw [clockEdges_cons haccept, clockEdges_busy_complete s x.cmd hys hlen]
      _ = runCommand x.cmd ((s.withHost .idle rest).withHost (.busy x.cmd 0) s.pending) := rfl
      _ = .next { t with pending := s.pending } := by rw [runCommand_withHost, hstep]; rfl
  · obtain ⟨k, hk⟩ := runCommand_answers x.cmd (s.withHost .idle rest)
    obtain ⟨u, r, hu, hr, -⟩ := hk.exists_answered
    cases hstep.symm.trans hu
    exact ⟨r, hr⟩

/-- Settles O10: an edge takes a held response or leaves the block as it is (`clockEdge_answered`). -/
theorem responseHeldUntilTaken : Obligations.ResponseHeldUntilTaken := by
  intro x s r hrst hport
  refine ⟨by simp [State.outputs, hport], ?_⟩
  rw [clockEdge_answered hrst hport]
  split
  · rfl
  · rw [← hport]

/-! ### REG_WR on an RW row, and `nec.cfg` (R99, R232) -/

/-- REG_WR of an RW row whose block has the index answers OK after the write effect (R232). -/
theorem execRegWr_of_rw {s : State} {g : Reg} {inst : Nat} (hg : g.access = .rw) (hinst : inst < s.count g.block)
    (b : Word) : exec (.regWr inst g.address b) s = .next ((s.writeReg g inst b).answer .ok 0) := by
  show execRegWr inst g.address b s = _
  simp only [execRegWr, lookupReg_address, if_neg hinst.not_ge, if_pos hg, respond_eq]

/-- REG_WR of an RW row of the NEC, whose write effect modifies the registers it addresses by `f`, sets them where the
block has the index. -/
theorem execRegWr_nec {s : State} {g : Reg} {inst : Nat} {r : NecRegs} {f : NecRegs → NecRegs} {b : Word}
    (hr : s.nec[inst]? = some r) (hg : g.access = .rw) (hblock : g.block = .nec)
    (hf : s.writeReg g inst b = { s with nec := s.nec.modify inst f }) :
    exec (.regWr inst g.address b) s = .next ((s.setNec inst (f r)).answer .ok 0) := by
  have hinst : inst < s.count g.block := by
    rw [hblock]; exact (List.getElem?_eq_some_iff.1 hr).1
  have hset : s.nec.modify inst f = s.nec.set inst (f r) := by
    rw [List.modify_eq_set_getElem?, hr]; rfl
  rw [execRegWr_of_rw hg hinst, hf, hset]
  rfl

/-- A command that answers is performed first, and its response comes first. -/
theorem execAll_cons {i : Instr} {s u v : State} {st : Status} {d : Word} {is : List Instr} {rs : List Response}
    (hi : exec i s = .next (u.answer st d)) (his : execAll is (u.answer st d) = some (v, rs)) :
    execAll (i :: is) s = some (v, ⟨st, d⟩ :: rs) := by
  simp only [execAll, hi, State.answer_port, his, Option.map_some]

/-- A further write to the same NEC registers replaces what the write before it set. -/
theorem execRegWr_nec_of_set {s : State} {g : Reg} {inst : Nat} {r r' : NecRegs} {f : NecRegs → NecRegs} {b : Word}
    (hr : s.nec[inst]? = some r) (hg : g.access = .rw) (hblock : g.block = .nec)
    (hf : ((s.setNec inst r').answer .ok 0).writeReg g inst b =
      { (s.setNec inst r').answer .ok 0 with nec := (s.nec.set inst r').modify inst f }) :
    exec (.regWr inst g.address b) ((s.setNec inst r').answer .ok 0) =
      .next ((s.setNec inst (f r')).answer .ok 0) := by
  have hr' : ((s.setNec inst r').answer .ok 0).nec[inst]? = some r' :=
    List.getElem?_set_self (List.getElem?_eq_some_iff.1 hr).1
  rw [execRegWr_nec hr' hg hblock hf]
  simp only [State.setNec, State.answer, List.set_set]

/-- Settles O58: four writes to the same registers, each of one field. -/
theorem necCfgSetsTheFourFields : Obligations.NecCfgSetsTheFourFields := by
  intro s inst hdr one zero tol r hr
  refine execAll_cons (execRegWr_nec (g := .necHdr) hr rfl rfl rfl) ?_
  refine execAll_cons (execRegWr_nec_of_set (g := .necOne) hr rfl rfl rfl) ?_
  refine execAll_cons (execRegWr_nec_of_set (g := .necZero) hr rfl rfl rfl) ?_
  exact execAll_cons (execRegWr_nec_of_set (g := .necTol) hr rfl rfl rfl) rfl

end Sys2Proof.Machine
end

section
/-! PROOFS. The PulseWidthClassifier statements (40_pulse_width_classifier.md): its two commands, the window a valid pair
sets, and what an answer depends on. -/

namespace Sys2Proof.Machine

/-! ### A header of an opcode with one index (R84 to R88) -/

/-- A header as R84's patterns write it, with its four fields in range, has those fields (R81). -/
theorem pattern_fields {opc rsv instb inst : Nat} (ho : opc < 32) (hr : rsv < 8) (hb : instb < 16) (hi : inst < 16)
    (a b : Word) :
    (Command.mk (BitVec.ofNat 16 (opc * 2048 + rsv * 256 + instb * 16 + inst)) a b).opc = opc ∧
    (Command.mk (BitVec.ofNat 16 (opc * 2048 + rsv * 256 + instb * 16 + inst)) a b).rsv = rsv ∧
    (Command.mk (BitVec.ofNat 16 (opc * 2048 + rsv * 256 + instb * 16 + inst)) a b).instb = instb ∧
    (Command.mk (BitVec.ofNat 16 (opc * 2048 + rsv * 256 + instb * 16 + inst)) a b).inst = inst := by
  simp only [Command.opc, Command.rsv, Command.instb, Command.inst, BitVec.extractLsb'_toNat, BitVec.toNat_ofNat,
    Nat.shiftRight_eq_div_pow]
  omega

/-- Every opcode but those of the comparisons of two trackers refuses RSV or INSTB nonzero (R86, R87). -/
theorem rejectsFields_badOneInst {opc : Nat} (hopc : opc < 32) (hspeed : opc ≠ 0x16) (havg : opc ≠ 0x17) (s : State)
    (a b : Word) : rejectsFields (opc * 2048) badOneInst s a b := by
  intro rsv instb inst hrsv hinstb hinst hbad
  obtain ⟨hcopc, hcrsv, hcinstb, -⟩ := pattern_fields hopc hrsv hinstb hinst a b
  obtain ⟨e, he⟩ : ∃ e, decode ⟨BitVec.ofNat 16 (opc * 2048 + rsv * 256 + instb * 16 + inst), a, b⟩ = .error e := by
    rw [exists_decode_eq_error_iff, exists_decodeOpcode_eq_error_iff, Command.badFields, hcopc, hcrsv, hcinstb]
    rcases hbad with h | h
    · exact .inl h
    · exact .inr (.inr (.inl ⟨h, hspeed, havg⟩))
  exact runCommand_of_reject he s

/-- PWC_CLASSIFY's row ignores word B (R84). -/
theorem decode_pwcClassify {inst : Nat} (h : inst < 16) (a b : Word) :
    decode ⟨header 0x02 0 inst, a, b⟩ = .ok (.pwcClassify inst a) := by
  obtain ⟨hopc, hrsv, hinstb, hinst⟩ := header_fields (opc := 0x02) (instb := 0) (by decide) (by decide) h a b
  rw [decode_of_rsv hrsv]
  simp only [decodeOpcode, hopc, hinst]
  exact oneInst_of_instb hinstb _

/-! ### The window and its test (R100 to R102) -/

/-- A Boolean answer is 1 exactly where its condition holds (R95). -/
theorem boolWord_eq_ite_of_iff {v : Bool} {P : Prop} [Decidable P] (h : v = true ↔ P) :
    boolWord v = if P then 1 else 0 :=
  if_congr h rfl rfl

theorem PwcRegs.isMatch_iff (p : Params) (t : TimeReg) (r : PwcRegs) :
    r.isMatch p t = true ↔
      sVal p.tw r.min ≤ interval p.tw t r.prev ∧ interval p.tw t r.prev ≤ sVal p.tw r.max :=
  inRange_iff ..

/-- A repeated timestamp asks whether the window holds 0 (R105). -/
theorem PwcRegs.isMatch_self_iff (p : Params) (t : TimeReg) (r : PwcRegs) :
    ({ r with prev := t } : PwcRegs).isMatch p t = true ↔ sVal p.tw r.min ≤ 0 ∧ 0 ≤ sVal p.tw r.max := by
  rw [isMatch_iff, interval_self]

/-- Neither end of a valid pair's window wraps (R101). -/
theorem PwcRegs.sVal_setWindow {p : Params} (hp : p.legal = true) {w tol : Nat} (htol : tol ≤ w)
    (hmax : w + tol < 2 ^ (p.tw - 1)) (r : PwcRegs) :
    sVal p.tw (r.setWindow p w tol).min = (w : Int) - tol ∧ sVal p.tw (r.setWindow p w tol).max = (w : Int) + tol := by
  obtain ⟨hlo, hhi, -, -⟩ := p.legal_iff.1 hp
  have hsum : (w : Int) + tol < 2 ^ (p.tw - 1) := by exact_mod_cast hmax
  exact ⟨sVal_wrapTo_of_range (by omega) hhi (by omega) (by omega),
    sVal_wrapTo_of_range (by omega) hhi (by omega) (by omega)⟩

/-- After a valid pair the test is of the exact window (R106). -/
theorem PwcRegs.setWindow_isMatch_iff {p : Params} (hp : p.legal = true) {w tol : Nat} (htol : tol ≤ w)
    (hmax : w + tol < 2 ^ (p.tw - 1)) (t : TimeReg) (r : PwcRegs) :
    (r.setWindow p w tol).isMatch p t = true ↔
      (w : Int) - tol ≤ interval p.tw t r.prev ∧ interval p.tw t r.prev ≤ (w : Int) + tol := by
  obtain ⟨hminVal, hmaxVal⟩ := r.sVal_setWindow hp htol hmax
  rw [isMatch_iff, hminVal, hmaxVal]
  rfl

/-! ### The two commands -/

section
variable {s : State} {inst : Nat} {r : PwcRegs}

theorem execPwcSetwin_some (h : s.pwc[inst]? = some r) (a b : Word) :
    exec (.pwcSetwin inst a b) s = .next
      ((s.setPwc inst (r.setWindow s.params (uVal s.params.tw a) (uVal s.params.tw b))).answer .ok 0) :=
  onPwc_some _ h

theorem execPwcClassify_some (h : s.pwc[inst]? = some r) (a : Word) :
    exec (.pwcClassify inst a) s = .next
      ((s.setPwc inst { r with prev := timeOperand s.params a }).answer .ok
        (boolWord (r.isMatch s.params (timeOperand s.params a)))) :=
  onPwc_some _ h

/-- What a command that answered has written is what the next one finds. -/
theorem getElem?_pwc_setPwc_answer (h : s.pwc[inst]? = some r) (r' : PwcRegs) (st : Status) (d : Word) :
    ((s.setPwc inst r').answer st d).pwc[inst]? = some r' :=
  List.getElem?_set_self (List.getElem?_eq_some_iff.1 h).1

/-- Of two edges, the second is measured from the first, whatever the first answered (R104). -/
theorem execAll_classify_classify (h : s.pwc[inst]? = some r) (t1 t2 : Word) :
    ∃ u, execAll [.pwcClassify inst t1, .pwcClassify inst t2] s =
      some (u, [⟨.ok, boolWord (r.isMatch s.params (timeOperand s.params t1))⟩,
        ⟨.ok, boolWord (({ r with prev := timeOperand s.params t1 } : PwcRegs).isMatch s.params
          (timeOperand s.params t2))⟩]) :=
  ⟨_, execAll_cons (execPwcClassify_some h t1)
    (execAll_cons (execPwcClassify_some (getElem?_pwc_setPwc_answer h _ _ _) t2) rfl)⟩

end

/-- Settles O24: the two patterns are those PWC_SETWIN wrote, which a valid pair does not wrap. -/
theorem pwcValidPairIsExact : Obligations.PwcValidPairIsExact := by
  intro s t inst a b w tol hp hinst hw htol ht
  obtain ⟨r, hr⟩ : ∃ r, s.pwc[inst]? = some r := ⟨_, List.getElem?_eq_getElem hinst⟩
  rw [execPwcSetwin_some hr] at ht
  cases ht
  subst hw htol
  refine ⟨_, getElem?_pwc_setPwc_answer hr _ _ _, rfl, rfl, fun hle hmax => ?_⟩
  refine PwcRegs.sVal_setWindow hp (by exact_mod_cast hle) ?_ r
  exact_mod_cast Int.lt_of_le_sub_one hmax

/-- Settles O25: PREV is as it was, and the test is of the exact window (`PwcRegs.setWindow_isMatch_iff`). -/
theorem pwcBoundaryProperty : Obligations.PwcBoundaryProperty := by
  intro s inst a b t r hp hr htol hmax
  obtain ⟨-, htw, -, -⟩ := s.params.legal_iff.1 hp
  have hmatch := r.setWindow_isMatch_iff hp htol (Nat.lt_of_le_sub_one (Nat.two_pow_pos _) hmax) (timeOperand s.params t)
  rw [interval_timeOperand htw] at hmatch
  rw [← boolWord_eq_ite_of_iff hmatch]
  exact ⟨_, execAll_cons (execPwcSetwin_some hr a b)
    (execAll_cons (execPwcClassify_some (getElem?_pwc_setPwc_answer hr _ _ _) t) rfl)⟩

/-- Settles O26: after the first edge the two instances agree on the window and on PREV. -/
theorem pwcResultNeedsOnlyTheLastEdge : Obligations.PwcResultNeedsOnlyTheLastEdge := by
  intro s s' inst t1 t2 r r' hp hr hr' hmin hmax
  obtain ⟨u, hu⟩ := execAll_classify_classify hr t1 t2
  obtain ⟨u', hu'⟩ := execAll_classify_classify hr' t1 t2
  rw [hp, hmin, hmax] at hu'
  exact ⟨u, u', _, _, _, hu, hu'⟩

/-- Settles O27: the second edge has interval 0 (`PwcRegs.isMatch_self_iff`) and writes the PREV that stands there; a
window with tol < w begins above 0. -/
theorem pwcZeroIntervalIsNoPulse : Obligations.PwcZeroIntervalIsNoPulse := by
  intro s inst t r hr
  refine ⟨_, _, execAll_cons (execPwcClassify_some hr t) rfl, ?_, fun a b hp hlt hmax => ?_⟩
  · rw [← boolWord_eq_ite_of_iff (r.isMatch_self_iff s.params (timeOperand s.params t)),
      execPwcClassify_some (getElem?_pwc_setPwc_answer hr _ _ _) t]
    simp only [State.setPwc, State.answer, List.set_set]
  · have hmatch := PwcRegs.setWindow_isMatch_iff hp hlt.le (Nat.lt_of_le_sub_one (Nat.two_pow_pos _) hmax)
      (timeOperand s.params t) { r with prev := timeOperand s.params t }
    have hmiss : ({ r.setWindow s.params (uVal s.params.tw a) (uVal s.params.tw b) with
        prev := timeOperand s.params t } : PwcRegs).isMatch s.params (timeOperand s.params t) = false :=
      Bool.eq_false_iff.2 (mt hmatch.1 (by rw [interval_self]; omega))
    obtain ⟨v, hv⟩ := execAll_classify_classify (getElem?_pwc_setPwc_answer hr
      (r.setWindow s.params (uVal s.params.tw a) (uVal s.params.tw b)) .ok 0) t t
    simp only [State.answer_params, State.setPwc_params, hmiss, boolWord_false] at hv
    exact ⟨v, _, execAll_cons (execPwcSetwin_some hr a b) hv⟩

/-- Settles O22, with the headers by the round trip and `rejectsFields_badOneInst`. -/
theorem pwcSetwinSetsTheWindow : Obligations.PwcSetwinSetsTheWindow := fun s inst a b =>
  ⟨fun hinst => decodeEncodeRoundTrip (.pwcSetwin inst a b) (decide_eq_true hinst),
    rejectsFields_badOneInst (opc := 0x01) (by decide) (by decide) (by decide) s a b,
    fun _ hr => execPwcSetwin_some hr a b, onPwc_none _⟩

/-- Settles O23: the answer's condition is `PwcRegs.isMatch_iff`. -/
theorem pwcClassifyTestsTheWindow : Obligations.PwcClassifyTestsTheWindow := by
  intro s inst a b
  refine ⟨fun hinst => decode_pwcClassify hinst a b,
    rejectsFields_badOneInst (opc := 0x02) (by decide) (by decide) (by decide) s a b, fun r hr => ?_, onPwc_none _⟩
  rw [execPwcClassify_some hr, boolWord_eq_ite_of_iff (r.isMatch_iff s.params _)]
  rfl

end Sys2Proof.Machine
end

section
/-! PROOFS. The NecDecoder statements (41_nec_decoder.md): its two commands, the resynchronisation by a repeated
timestamp, the decoding of a canonical frame, and the two validators. -/

namespace Sys2Proof.Machine

/-! ### The headers of the NEC opcodes (R84 to R88) -/

/-- A header with RSV = 000 decodes to what the opcode map gives its fields, whatever operand words the row ignores
(R84). -/
theorem decode_header {opc instb inst : Nat} {a b : Word} {i : Instr} (ho : opc < 32) (hb : instb < 16)
    (hi : inst < 16)
    (hrow : ∀ c : Command, c.opc = opc → c.instb = instb → c.inst = inst → c.a = a → decodeOpcode c = .ok i) :
    decode ⟨header opc instb inst, a, b⟩ = .ok i := by
  obtain ⟨hopc, hrsv, hinstb, hinst⟩ := header_fields ho hb hi a b
  rw [decode_of_rsv hrsv, hrow _ hopc hinstb hinst rfl]

theorem decode_necInit {inst : Nat} (h : inst < 16) (a b : Word) :
    decode ⟨header 0x04 0 inst, a, b⟩ = .ok (.necInit inst) :=
  decode_header (by decide) (by decide) h fun _ hopc hinstb hinst _ => by
    simp only [decodeOpcode, hopc, hinst, oneInst_of_instb hinstb]

theorem decode_necEdge {inst : Nat} (h : inst < 16) (a b : Word) :
    decode ⟨header 0x05 0 inst, a, b⟩ = .ok (.necEdge inst a) :=
  decode_header (by decide) (by decide) h fun _ hopc hinstb hinst ha => by
    simp only [decodeOpcode, hopc, hinst, ha, oneInst_of_instb hinstb]

theorem decode_necCheck (a b : Word) : decode ⟨header 0x06 0 0, a, b⟩ = .ok (.necCheck a) :=
  decode_header (by decide) (by decide) (by decide) fun _ hopc hinstb hinst ha => by
    simp only [decodeOpcode, hopc, ha, noInst_of_fields hinstb hinst]

theorem decode_necCheckext (a b : Word) : decode ⟨header 0x07 0 0, a, b⟩ = .ok (.necCheckext a) :=
  decode_header (by decide) (by decide) (by decide) fun _ hopc hinstb hinst ha => by
    simp only [decodeOpcode, hopc, ha, noInst_of_fields hinstb hinst]

/-- The validators refuse RSV, INSTB or INST nonzero (R86, R87, R88). -/
theorem rejectsFields_badNoInst {opc : Nat} (hopc : opc = 0x06 ∨ opc = 0x07) (s : State) (a b : Word) :
    rejectsFields (opc * 2048) badNoInst s a b := by
  intro rsv instb inst hrsv hinstb hinst hbad
  obtain ⟨hcopc, hcrsv, hcinstb, hcinst⟩ := pattern_fields (opc := opc) (by omega) hrsv hinstb hinst a b
  obtain ⟨e, he⟩ : ∃ e, decode ⟨BitVec.ofNat 16 (opc * 2048 + rsv * 256 + instb * 16 + inst), a, b⟩ = .error e := by
    rw [exists_decode_eq_error_iff, exists_decodeOpcode_eq_error_iff, Command.badFields, hcopc, hcrsv, hcinstb,
      hcinst]
    rcases hbad with h | h | h
    · exact .inl h
    · exact .inr (.inr (.inl ⟨h, by omega, by omega⟩))
    · exact .inr (.inr (.inr ⟨h, hopc⟩))
  exact runCommand_of_reject he s

/-! ### The window test (R121) -/

theorem NecRegs.win_iff (p : Params) (r : NecRegs) (c : TimeReg) (dt : Int) :
    r.win p c dt = true ↔ r.within p c dt :=
  inWindow_iff ..

theorem NecRegs.within_self (p : Params) (r : NecRegs) (c : TimeReg) : r.within p c (uVal p.tw c) := by
  constructor <;> omega

/-- A window with its tolerance below its centre begins above 0. -/
theorem NecRegs.not_within_zero {p : Params} {r : NecRegs} {c : TimeReg} (h : uVal p.tw r.tol < uVal p.tw c) :
    ¬ r.within p c 0 := by
  rintro ⟨hlo, -⟩
  omega

section
variable {p : Params} {r : NecRegs} {dt : Int}

theorem NecRegs.bit_of_within_one (h : r.within p r.one dt) : r.bit p dt = some true :=
  if_pos ((r.win_iff ..).2 h)

theorem NecRegs.bit_of_within_zero (hone : ¬ r.within p r.one dt) (hzero : r.within p r.zero dt) :
    r.bit p dt = some false := by
  rw [NecRegs.bit, if_neg (mt (r.win_iff ..).1 hone), if_pos ((r.win_iff ..).2 hzero)]

theorem NecRegs.bit_of_not_within (hone : ¬ r.within p r.one dt) (hzero : ¬ r.within p r.zero dt) :
    r.bit p dt = none := by
  rw [NecRegs.bit, if_neg (mt (r.win_iff ..).1 hone), if_neg (mt (r.win_iff ..).1 hzero)]

end

/-! ### One edge, case by case (R122 to R127) -/

/-- A bit before the 32nd goes into ACC at BITIDX (R125). -/
theorem NecRegs.accept_of_ne {r : NecRegs} (h : r.bitIdx ≠ 31) (bit : Bool) :
    r.accept bit =
      ({ r with acc := r.acc ||| (boolWord bit <<< r.bitIdx.toNat), bitIdx := r.bitIdx + 1 }, 0) := by
  have hmore : ¬ r.bitIdx.toNat + 1 = 32 := fun heq =>
    h (BitVec.eq_of_toNat_eq (Nat.succ.inj heq))
  have hnext : BitVec.ofNat 6 (r.bitIdx.toNat + 1) = r.bitIdx + 1 := by
    rw [BitVec.ofNat_add, BitVec.ofNat_toNat, BitVec.setWidth_eq]
    rfl
  simp only [NecRegs.accept, if_neg hmore, hnext]

/-- The 32nd bit completes the frame and is answered with the code (R126). -/
theorem NecRegs.accept_of_eq {r : NecRegs} (h : r.bitIdx = 31) (bit : Bool) :
    r.accept bit =
      ({ r with state := .await, bitIdx := 32, acc := r.acc ||| (boolWord bit <<< r.bitIdx.toNat) },
        r.acc ||| (boolWord bit <<< r.bitIdx.toNat)) := by
  have hidx : r.bitIdx.toNat = 31 := by rw [h]; rfl
  simp only [NecRegs.accept, hidx, if_pos]
  rfl

section
variable {p : Params} {r : NecRegs} {t : TimeReg}

/-- A header starts a frame (R124). -/
theorem NecRegs.edge_of_header (hs : r.state = .await) (h : r.within p r.hdr (interval p.tw t r.prev)) :
    r.edge p t = ({ r with state := .collect, bitIdx := 0, acc := 0, prev := t }, 0) := by
  simp only [NecRegs.edge, NecRegs.onInterval, hs]
  exact if_pos ((r.win_iff ..).2 h)

/-- Any other interval leaves the header search as it was (R124). -/
theorem NecRegs.edge_of_no_header (hs : r.state = .await) (h : ¬ r.within p r.hdr (interval p.tw t r.prev)) :
    r.edge p t = ({ r with prev := t }, 0) := by
  simp only [NecRegs.edge, NecRegs.onInterval, hs]
  exact if_neg (mt (r.win_iff ..).1 h)

/-- An interval in a bit window is a received bit (R125). -/
theorem NecRegs.edge_of_bit {bit : Bool} (hs : r.state = .collect)
    (h : r.bit p (interval p.tw t r.prev) = some bit) : r.edge p t = ({ r with prev := t } : NecRegs).accept bit := by
  have hbit : ({ r with state := .collect, prev := t } : NecRegs).bit p (interval p.tw t r.prev) = some bit := h
  simp only [NecRegs.edge, NecRegs.onInterval, hs, hbit]

/-- An interval in neither bit window aborts the frame (R127). -/
theorem NecRegs.edge_of_abort (hs : r.state = .collect) (hone : ¬ r.within p r.one (interval p.tw t r.prev))
    (hzero : ¬ r.within p r.zero (interval p.tw t r.prev)) :
    r.edge p t = ({ r with state := .await, prev := t }, 0) := by
  have hbit : ({ r with state := .collect, prev := t } : NecRegs).bit p (interval p.tw t r.prev) = none :=
    NecRegs.bit_of_not_within hone hzero
  simp only [NecRegs.edge, NecRegs.onInterval, hs, hbit]

/-- No received bit writes the configuration fields or PREV. -/
theorem NecRegs.accept_frame (bit : Bool) (r : NecRegs) :
    (r.accept bit).1.hdr = r.hdr ∧ (r.accept bit).1.one = r.one ∧ (r.accept bit).1.zero = r.zero ∧
      (r.accept bit).1.tol = r.tol ∧ (r.accept bit).1.prev = r.prev := by
  by_cases h : r.bitIdx = 31
  · rw [accept_of_eq h]; exact ⟨rfl, rfl, rfl, rfl, rfl⟩
  · rw [accept_of_ne h]; exact ⟨rfl, rfl, rfl, rfl, rfl⟩

/-- An edge keeps the configuration fields, and PREV takes its timestamp in every case (R122, R123). -/
theorem NecRegs.edge_frame (p : Params) (t : TimeReg) (r : NecRegs) :
    (r.edge p t).1.hdr = r.hdr ∧ (r.edge p t).1.one = r.one ∧ (r.edge p t).1.zero = r.zero ∧
      (r.edge p t).1.tol = r.tol ∧ (r.edge p t).1.prev = t := by
  unfold NecRegs.edge NecRegs.onInterval
  split
  · split <;> exact ⟨rfl, rfl, rfl, rfl, rfl⟩
  · split
    · exact NecRegs.accept_frame ..
    · exact ⟨rfl, rfl, rfl, rfl, rfl⟩

/-- A repeated timestamp ends in the header search where no window holds 0 (R129). -/
theorem NecRegs.edge_repeated (hprev : r.prev = t) (hhdr : uVal p.tw r.tol < uVal p.tw r.hdr)
    (hone : uVal p.tw r.tol < uVal p.tw r.one) (hzero : uVal p.tw r.tol < uVal p.tw r.zero) :
    r.edge p t = ({ r with state := .await, prev := t }, 0) := by
  have hdt : interval p.tw t r.prev = 0 := by rw [hprev, interval_self]
  cases hs : r.state with
  | await =>
    rw [edge_of_no_header hs (by rw [hdt]; exact not_within_zero hhdr), ← hs]
  | collect =>
    exact edge_of_abort hs (by rw [hdt]; exact not_within_zero hone) (by rw [hdt]; exact not_within_zero hzero)

end

/-! ### The two commands and sequences of edges -/

section
variable {s : State} {inst : Nat} {r : NecRegs}

theorem execNecInit_some (h : s.nec[inst]? = some r) :
    exec (.necInit inst) s = .next
      ((s.setNec inst { r with state := .await, bitIdx := 0, acc := 0 }).answer .ok 0) :=
  onNec_some _ h

theorem execNecEdge_some (h : s.nec[inst]? = some r) (a : Word) :
    exec (.necEdge inst a) s = .next
      ((s.setNec inst (r.edge s.params (timeOperand s.params a)).1).answer .ok
        (r.edge s.params (timeOperand s.params a)).2) :=
  onNec_some _ h

/-- NEC_EDGE from what the edge makes of the registers. -/
theorem execNecEdge_of_edge {r' : NecRegs} {d a : Word} (h : s.nec[inst]? = some r)
    (hedge : r.edge s.params (timeOperand s.params a) = (r', d)) :
    exec (.necEdge inst a) s = .next ((s.setNec inst r').answer .ok d) := by
  rw [execNecEdge_some h, hedge]

/-- What a command that answered has written is what the next one finds. -/
theorem getElem?_nec_setNec_answer (h : s.nec[inst]? = some r) (r' : NecRegs) (st : Status) (d : Word) :
    ((s.setNec inst r').answer st d).nec[inst]? = some r' :=
  List.getElem?_set_self (List.getElem?_eq_some_iff.1 h).1

end

/-- Successive edges of one decoder: the registers after the last, and the answers in order. -/
def NecRegs.edges (p : Params) : List Word → NecRegs → NecRegs × List Word
  | [], r => (r, [])
  | t :: ts, r =>
    ((edges p ts (r.edge p (timeOperand p t)).1).1,
      (r.edge p (timeOperand p t)).2 :: (edges p ts (r.edge p (timeOperand p t)).1).2)

/-- The edges of a list after a first one. -/
theorem NecRegs.edges_cons {p : Params} {r r' r'' : NecRegs} {t d : Word} {ts ds : List Word}
    (ht : r.edge p (timeOperand p t) = (r', d)) (hts : r'.edges p ts = (r'', ds)) :
    r.edges p (t :: ts) = (r'', d :: ds) := by
  simp only [NecRegs.edges, ht, hts]

/-- NEC_EDGE commands on a decoder that exists answer OK with the answers of its edges and leave their registers. -/
theorem execAll_necEdge {inst : Nat} (ts : List Word) {s : State} {r : NecRegs} (h : s.nec[inst]? = some r) :
    ∃ u, execAll (ts.map (.necEdge inst)) s = some (u, (r.edges s.params ts).2.map (Response.mk .ok)) ∧
      u.nec[inst]? = some (r.edges s.params ts).1 := by
  induction ts generalizing s r with
  | nil => exact ⟨s, rfl, h⟩
  | cons t ts ih =>
    obtain ⟨u, hu, hnec⟩ := ih (getElem?_nec_setNec_answer h (r.edge s.params (timeOperand s.params t)).1 .ok
      (r.edge s.params (timeOperand s.params t)).2)
    exact ⟨u, execAll_cons (execNecEdge_some h t) hu, hnec⟩

/-! ### The canonical frame (R132) -/

/-- The premises under which the canonical frame is read as it was written: every centre is a true interval (R279), and
the centre of the zero window lies outside the one window (R132). -/
structure NecRegs.CanonicalTiming (p : Params) (r : NecRegs) : Prop where
  legal : p.legal = true
  hdr : uVal p.tw r.hdr < 2 ^ (p.tw - 1)
  one : uVal p.tw r.one < 2 ^ (p.tw - 1)
  zero : uVal p.tw r.zero < 2 ^ (p.tw - 1)
  tol : (uVal p.tw r.tol : Int) < |(uVal p.tw r.zero : Int) - (uVal p.tw r.one : Int)|

/-- The interval that stands for a bit: the centre of its window (R132). -/
def NecRegs.centre (r : NecRegs) (bit : Bool) : TimeReg := if bit then r.one else r.zero

/-- The decoder with the bits of `code` below `k` received, the last edge at `t`. -/
def NecRegs.collecting (p : Params) (code t : Word) (k : Nat) (r : NecRegs) : NecRegs :=
  { r with state := .collect, bitIdx := BitVec.ofNat 6 k, acc := lowBits k code, prev := timeOperand p t }

/-- The decoder with all of `code` received, the last edge at `t` (R126). -/
def NecRegs.decoded (p : Params) (code t : Word) (r : NecRegs) : NecRegs :=
  { r with state := .await, bitIdx := 32, acc := code, prev := timeOperand p t }

theorem canonicalBits_succ (r : NecRegs) (code t : Word) (k n : Nat) :
    canonicalBits r.one r.zero code t k (n + 1) =
      (t + r.centre (code.getLsbD k)) ::
        canonicalBits r.one r.zero code (t + r.centre (code.getLsbD k)) (k + 1) n := rfl

/-- A true interval is measured exactly, the counter wrapping at 2^TW (R21, R279). -/
theorem interval_timeOperand_add {p : Params} (hp : p.legal = true) {c : TimeReg}
    (hc : uVal p.tw c < 2 ^ (p.tw - 1)) (t : Word) :
    interval p.tw (timeOperand p (t + c)) (timeOperand p t) = uVal p.tw c := by
  obtain ⟨hlo, hhi, -, -⟩ := p.legal_iff.1 hp
  have hsub : (timeOperand p (t + c)).setWidth p.tw - (timeOperand p t).setWidth p.tw = c.setWidth p.tw := by
    simp only [timeOperand, lowBits, BitVec.setWidth_setWidth_of_le _ hhi, BitVec.setWidth_eq,
      BitVec.setWidth_add _ _ hhi]
    rw [BitVec.add_comm, BitVec.add_sub_cancel]
  have hpow : 2 ^ p.tw = 2 * 2 ^ (p.tw - 1) := (mul_pow_sub_one (by omega) 2).symm
  have hsmall : 2 * (c.setWidth p.tw).toNat < 2 ^ p.tw := hpow ▸ Nat.mul_lt_mul_of_pos_left hc two_pos
  rw [interval_eq_toInt_sub, hsub, BitVec.toInt_eq_toNat_of_lt hsmall, uVal]

theorem getLsbD_boolWord (v : Bool) (i : Nat) : (boolWord v).getLsbD i = (decide (i = 0) && v) := by
  cases v <;> simp [boolWord]

theorem getLsbD_lowBits (code : Word) (k i : Nat) :
    (lowBits k code : Word).getLsbD i = (decide (i < 32) && (decide (i < k) && code.getLsbD i)) := by
  simp only [lowBits, BitVec.getLsbD_setWidth]

/-- Bit `k` of a word joins its bits below `k`. -/
theorem lowBits_or_shiftLeft (code : Word) (k : Nat) :
    lowBits k code ||| (boolWord (code.getLsbD k) <<< k) = (lowBits (k + 1) code : Word) := by
  apply BitVec.eq_of_getLsbD_eq
  intro i hi
  simp only [BitVec.getLsbD_or, BitVec.getLsbD_shiftLeft, getLsbD_boolWord, getLsbD_lowBits, hi, decide_true,
    Bool.true_and]
  rcases lt_trichotomy i k with h | rfl | h
  · simp [h, h.trans k.lt_succ_self]
  · simp
  · simp [h.not_gt, Nat.sub_ne_zero_of_lt h, Nat.not_lt.2 (Nat.succ_le_of_lt h)]

theorem lowBits_none (code : Word) : (lowBits 0 code : Word) = 0 := by
  rw [lowBits, BitVec.eq_nil (code.setWidth 0)]
  rfl

theorem lowBits_word (code : Word) : (lowBits 32 code : Word) = code := by
  simp only [lowBits, BitVec.setWidth_eq]

section
variable {p : Params} {r : NecRegs}

/-- The one window is tested first, and misses the centre of the zero window (R125, R132). -/
theorem NecRegs.CanonicalTiming.bit_centre (h : r.CanonicalTiming p) (bit : Bool) :
    r.bit p (uVal p.tw (r.centre bit)) = some bit := by
  cases bit with
  | true => exact bit_of_within_one (r.within_self p r.one)
  | false =>
    have hone : ¬ r.within p r.one (uVal p.tw r.zero) := by
      rintro ⟨hlo, hhi⟩
      exact h.tol.not_ge (abs_sub_le_iff.2 ⟨by omega, by omega⟩)
    exact bit_of_within_zero hone (r.within_self p r.zero)

theorem NecRegs.CanonicalTiming.centre_lt (h : r.CanonicalTiming p) (bit : Bool) :
    uVal p.tw (r.centre bit) < 2 ^ (p.tw - 1) := by
  cases bit with
  | true => exact h.one
  | false => exact h.zero

/-- The header of a canonical frame starts it with no bit received. -/
theorem NecRegs.CanonicalTiming.edge_header (h : r.CanonicalTiming p) {t : Word} (hs : r.state = .await)
    (hprev : r.prev = timeOperand p t) (code : Word) :
    r.edge p (timeOperand p (t + r.hdr)) = (r.collecting p code (t + r.hdr) 0, 0) := by
  have hdt : interval p.tw (timeOperand p (t + r.hdr)) r.prev = uVal p.tw r.hdr := by
    rw [hprev, interval_timeOperand_add h.legal h.hdr]
  rw [edge_of_header hs (by rw [hdt]; exact r.within_self p r.hdr)]
  rw [collecting, lowBits_none]
  rfl

/-- An edge at the centre of bit `k`'s window receives that bit. -/
theorem NecRegs.CanonicalTiming.edge_collecting (h : r.CanonicalTiming p) (code t : Word) (k : Nat) :
    (r.collecting p code t k).edge p (timeOperand p (t + r.centre (code.getLsbD k))) =
      ({ r.collecting p code t k with prev := timeOperand p (t + r.centre (code.getLsbD k)) } : NecRegs).accept
        (code.getLsbD k) := by
  refine edge_of_bit rfl ?_
  have hdt := interval_timeOperand_add h.legal (h.centre_lt (code.getLsbD k)) t
  calc (r.collecting p code t k).bit p
        (interval p.tw (timeOperand p (t + r.centre (code.getLsbD k))) (timeOperand p t))
      = r.bit p (uVal p.tw (r.centre (code.getLsbD k))) := by rw [hdt]; rfl
    _ = some (code.getLsbD k) := h.bit_centre _

/-- A received bit before the 32nd (R125). -/
theorem NecRegs.CanonicalTiming.edge_collecting_of_lt (h : r.CanonicalTiming p) (code t : Word) {k : Nat}
    (hk : k < 31) :
    (r.collecting p code t k).edge p (timeOperand p (t + r.centre (code.getLsbD k))) =
      (r.collecting p code (t + r.centre (code.getLsbD k)) (k + 1), 0) := by
  have hidx : (BitVec.ofNat 6 k).toNat = k := by rw [BitVec.toNat_ofNat]; omega
  have hne : BitVec.ofNat 6 k ≠ 31 := fun heq => by
    have := congrArg BitVec.toNat heq
    rw [hidx] at this
    exact hk.ne this
  rw [h.edge_collecting, accept_of_ne hne]
  simp only [collecting, hidx, lowBits_or_shiftLeft, BitVec.ofNat_add]
  rfl

/-- The 32nd bit (R126). -/
theorem NecRegs.CanonicalTiming.edge_collecting_last (h : r.CanonicalTiming p) (code t : Word) :
    (r.collecting p code t 31).edge p (timeOperand p (t + r.centre (code.getLsbD 31))) =
      (r.decoded p code (t + r.centre (code.getLsbD 31)), code) := by
  have hacc : lowBits 31 code ||| (boolWord (code.getLsbD 31) <<< (31#6).toNat) = code :=
    (lowBits_or_shiftLeft code 31).trans (lowBits_word code)
  rw [h.edge_collecting, accept_of_eq rfl]
  simp only [collecting, hacc]
  rfl

/-- The rest of a canonical frame from bit `k` on: answers of 0, then the code. -/
theorem NecRegs.CanonicalTiming.edges_canonicalBits (h : r.CanonicalTiming p) (code : Word) {k n : Nat}
    (hk : k + n = 31) (t : Word) :
    ∃ last, (canonicalBits r.one r.zero code t k (n + 1)).getLast? = some last ∧
      (r.collecting p code t k).edges p (canonicalBits r.one r.zero code t k (n + 1)) =
        (r.decoded p code last, List.replicate n 0 ++ [code]) := by
  induction n generalizing k t with
  | zero =>
    obtain rfl : k = 31 := hk
    exact ⟨_, rfl, edges_cons (h.edge_collecting_last code t) rfl⟩
  | succ n ih =>
    obtain ⟨last, hlast, hedges⟩ := ih (k := k + 1) (by omega) (t + r.centre (code.getLsbD k))
    refine ⟨last, ?_, edges_cons (h.edge_collecting_of_lt code t (by omega)) hedges⟩
    rw [canonicalBits_succ, List.getLast?_cons, hlast]
    rfl

/-- A canonical frame after the reference edge `t`: answers of 0 to the header and the first 31 bits, then the code. -/
theorem NecRegs.CanonicalTiming.edges_canonicalFrame (h : r.CanonicalTiming p) {t : Word} (hs : r.state = .await)
    (hprev : r.prev = timeOperand p t) (code : Word) :
    ∃ last, (canonicalFrame r.hdr r.one r.zero code t).getLast? = some last ∧
      r.edges p (canonicalFrame r.hdr r.one r.zero code t) =
        (r.decoded p code last, List.replicate 32 0 ++ [code]) := by
  obtain ⟨last, hlast, hedges⟩ := h.edges_canonicalBits code (k := 0) (n := 31) rfl (t + r.hdr)
  refine ⟨last, ?_, edges_cons (h.edge_header hs hprev code) hedges⟩
  rw [canonicalFrame, List.getLast?_cons, hlast]
  rfl

end

/-! ### The validators (R128, R130, R131) -/

/-- Two bytes differ in every bit exactly where one is the complement of the other. -/
theorem xor_eq_allOnes_iff {w : Nat} (x y : BitVec w) : x ^^^ y = BitVec.allOnes w ↔ x = ~~~ y := by
  rw [← BitVec.xor_left_inj y, BitVec.xor_assoc, BitVec.xor_self, BitVec.xor_zero, BitVec.allOnes_xor]

theorem necCommandOk_iff (a : Word) : necCommandOk a = true ↔ a.extractLsb' 16 8 = ~~~ a.extractLsb' 24 8 :=
  beq_iff_eq.trans (xor_eq_allOnes_iff _ _)

theorem necAddressOk_iff (a : Word) : necAddressOk a = true ↔ a.extractLsb' 0 8 = ~~~ a.extractLsb' 8 8 :=
  beq_iff_eq.trans (xor_eq_allOnes_iff _ _)

/-- A field of a field. -/
theorem extractLsb'_extractLsb' {w i n j m : Nat} (h : j + m ≤ n) (v : BitVec w) :
    (v.extractLsb' i n).extractLsb' j m = v.extractLsb' (i + j) m := by
  ext k hk
  simp [show j + k < n by omega, Nat.add_assoc]

/-- The command test reads the command half of the code alone (R131). -/
theorem necCommandOk_congr {a c : Word} (h : c.extractLsb' 16 16 = a.extractLsb' 16 16) :
    necCommandOk c = necCommandOk a := by
  have hlow := congrArg (BitVec.extractLsb' 0 8) h
  have hhigh := congrArg (BitVec.extractLsb' 8 8) h
  rw [extractLsb'_extractLsb' (by decide), extractLsb'_extractLsb' (by decide)] at hlow hhigh
  rw [necCommandOk, necCommandOk, hlow, hhigh]

theorem necCheck_condition_iff (p : Params) (a : Word) :
    (necCommandOk a && (necAddressOk a || !p.necPlainAddrCheck)) = true ↔
      a.extractLsb' 16 8 = ~~~ a.extractLsb' 24 8 ∧
        (p.necPlainAddrCheck = true → a.extractLsb' 0 8 = ~~~ a.extractLsb' 8 8) := by
  rw [Bool.and_eq_true, Bool.or_eq_true, necCommandOk_iff, necAddressOk_iff]
  cases p.necPlainAddrCheck <;> simp

/-! ### The statements -/

/-- Settles O31, by the canonical frame's edges (`edges_canonicalFrame`). -/
theorem necCanonicalFrameDecodes : Obligations.NecCanonicalFrameDecodes := by
  intro s inst code t r hp hr hs hprev hhdr hone hzero htol
  have htiming : r.CanonicalTiming s.params := ⟨hp, hhdr, hone, hzero, htol⟩
  obtain ⟨last, hlast, hedges⟩ := htiming.edges_canonicalFrame hs hprev code
  obtain ⟨u, hu, hnec⟩ := execAll_necEdge (canonicalFrame r.hdr r.one r.zero code t) hr
  rw [hedges] at hu hnec
  exact ⟨u, last, hu, hlast, hnec⟩

/-- Settles O32: the abort leaves PREV at `t` and the header search, from which the frame decodes whatever BITIDX and
ACC hold (`edges_canonicalFrame`). -/
theorem necAbortThenFrameDecodes : Obligations.NecAbortThenFrameDecodes := by
  intro s inst code t r dt hp hr hs hdt hnone hnzero hhdr hone hzero htol
  subst hdt
  have htiming : ({ r with state := .await, prev := timeOperand s.params t } : NecRegs).CanonicalTiming s.params :=
    ⟨hp, hhdr, hone, hzero, htol⟩
  obtain ⟨last, -, hframe⟩ := htiming.edges_canonicalFrame rfl rfl code
  have hedges := NecRegs.edges_cons (NecRegs.edge_of_abort hs hnone hnzero) hframe
  obtain ⟨u, hu, -⟩ := execAll_necEdge (t :: canonicalFrame r.hdr r.one r.zero code t) hr
  rw [hedges] at hu
  exact ⟨u, hu⟩

/-- Settles O30: the first edge leaves PREV at `t` and keeps the windows (`NecRegs.edge_frame`), so the second is a
repeated timestamp (`NecRegs.edge_repeated`). -/
theorem necTwoEqualEdgesResynchronise : Obligations.NecTwoEqualEdgesResynchronise := by
  intro s inst t r hr hhdr hone hzero
  obtain ⟨hhdr', hone', hzero', htol', hprev'⟩ := r.edge_frame s.params (timeOperand s.params t)
  rw [← hhdr', ← htol'] at hhdr
  rw [← hone', ← htol'] at hone
  rw [← hzero', ← htol'] at hzero
  have hsecond := NecRegs.edge_repeated hprev' hhdr hone hzero
  have hnec := getElem?_nec_setNec_answer hr (r.edge s.params (timeOperand s.params t)).1 .ok
    (r.edge s.params (timeOperand s.params t)).2
  exact ⟨_, _, _, execAll_cons (execNecEdge_some hr t) (execAll_cons (execNecEdge_of_edge hnec hsecond) rfl),
    getElem?_nec_setNec_answer hnec _ _ _, rfl, rfl⟩

/-- Settles O29, by the edge's cases. -/
theorem necEdgeTransitions : Obligations.NecEdgeTransitions := by
  intro s inst a b
  refine ⟨fun hinst => decode_necEdge hinst a b,
    rejectsFields_badOneInst (opc := 0x05) (by decide) (by decide) (by decide) s a b, fun r dt hr hdt => ?_,
    onNec_none _⟩
  subst hdt
  refine ⟨fun hs hin => execNecEdge_of_edge hr (NecRegs.edge_of_header hs hin),
    fun hs hout => execNecEdge_of_edge hr (NecRegs.edge_of_no_header hs hout),
    fun hs hone hzero => execNecEdge_of_edge hr (NecRegs.edge_of_abort hs hone hzero),
    fun bit acc hs hbit hacc => ?_⟩
  obtain ⟨v, rfl, hv⟩ : ∃ v, bit = boolWord v ∧
      r.bit s.params (interval s.params.tw (timeOperand s.params a) r.prev) = some v := by
    rcases hbit with ⟨hone, rfl⟩ | ⟨hone, hzero, rfl⟩
    · exact ⟨true, rfl, NecRegs.bit_of_within_one hone⟩
    · exact ⟨false, rfl, NecRegs.bit_of_within_zero hone hzero⟩
  subst hacc
  have hmore := NecRegs.accept_of_ne (r := { r with prev := timeOperand s.params a }) (bit := v)
  have hlast := NecRegs.accept_of_eq (r := { r with prev := timeOperand s.params a }) (bit := v)
  have hedge := NecRegs.edge_of_bit hs hv
  exact ⟨fun hne => execNecEdge_of_edge hr (hedge.trans (hmore hne)),
    fun heq => execNecEdge_of_edge hr (hedge.trans (hlast heq))⟩

/-- Settles O28, by NEC_INIT's equation. -/
theorem necInitRestartsTheSearch : Obligations.NecInitRestartsTheSearch := fun s inst a b =>
  ⟨fun hinst => decode_necInit hinst a b,
    rejectsFields_badOneInst (opc := 0x04) (by decide) (by decide) (by decide) s a b,
    fun _ hr => execNecInit_some hr, onNec_none _⟩

/-- Settles O33: the answer's condition is `necCheck_condition_iff`, which asks nothing of the address bytes where the
parameter is false. -/
theorem necCheckTestsThePlainConvention : Obligations.NecCheckTestsThePlainConvention := by
  intro s a b
  refine ⟨decode_necCheck a b, rejectsFields_badNoInst (.inl rfl) s a b, ?_, fun hplain => ?_⟩
  · rw [← boolWord_eq_ite_of_iff (necCheck_condition_iff s.params a)]
    rfl
  · show execNecCheck a s = execNecCheckext a s
    rw [execNecCheck, execNecCheckext, hplain, Bool.not_false, Bool.or_true, Bool.and_true]

/-- Settles O34: the answer is the command test, which reads the upper half of the code alone (`necCommandOk_congr`). -/
theorem necCheckextTestsTheCommandByte : Obligations.NecCheckextTestsTheCommandByte := by
  intro s a b
  refine ⟨decode_necCheckext a b, rejectsFields_badNoInst (.inr rfl) s a b, ?_, fun c hc => ?_, rfl⟩
  · rw [← boolWord_eq_ite_of_iff (necCommandOk_iff a)]
    rfl
  · show execNecCheckext c s = execNecCheckext a s
    rw [execNecCheckext, execNecCheckext, necCommandOk_congr hc]

end Sys2Proof.Machine
end

section
/-! PROOFS. The NvidiaShutterDecoder statements (42_nvidia_shutter_decoder.md): its three commands, and the phases of a
clean cycle after the anchor. -/

namespace Sys2Proof.Machine

/-! ### The headers of the NV opcodes (R84) -/

theorem decode_nvInit {inst : Nat} (h : inst < 16) (a b : Word) :
    decode ⟨header 0x08 0 inst, a, b⟩ = .ok (.nvInit inst) :=
  decode_header (by decide) (by decide) h fun _ hopc hinstb hinst _ => by
    simp only [decodeOpcode, hopc, hinst, oneInst_of_instb hinstb]

theorem decode_nvEdge {inst : Nat} (h : inst < 16) (a b : Word) :
    decode ⟨header 0x09 0 inst, a, b⟩ = .ok (.nvEdge inst a (b.getLsbD 0)) := by
  obtain ⟨hopc, hrsv, hinstb, hinst⟩ := header_fields (opc := 0x09) (instb := 0) (by decide) (by decide) h a b
  rw [decode_of_rsv hrsv]
  simp only [decodeOpcode, hopc, hinst]
  exact oneInst_of_instb hinstb _

theorem decode_nvIdle {inst : Nat} (h : inst < 16) (a b : Word) :
    decode ⟨header 0x0A 0 inst, a, b⟩ = .ok (.nvIdle inst a) :=
  decode_header (by decide) (by decide) h fun _ hopc hinstb hinst ha => by
    simp only [decodeOpcode, hopc, hinst, ha, oneInst_of_instb hinstb]

/-! ### One edge and the idle check, case by case (R151 to R157, R162) -/

/-- The hardwired constants put the anchor's window at 97 to 107 µs (R153). -/
theorem isAnchor_iff (d : Int) : isAnchor d = true ↔ 97 ≤ d ∧ d ≤ 107 :=
  inWindow_iff ..

theorem NvRegs.phaseWord_eq (r : NvRegs) : r.phaseWord = r.phase.code.setWidth 32 := by
  rw [phaseWord, zext32, BitVec.setWidth_eq]

section
variable {p : Params} {r : NvRegs} {t : TimeReg}

/-- A falling edge changes nothing (R155). -/
theorem NvRegs.edge_fall : r.edge p t false = r := rfl

/-- A repeated timestamp changes nothing (R162). -/
theorem NvRegs.edge_repeated (h : interval p.tw t r.prevRise = 0) : r.edge p t true = r :=
  if_pos h

/-- A counted rising edge is the new reference, for the next distance and for the idle check alike (R151). -/
theorem NvRegs.edge_counted (h : interval p.tw t r.prevRise ≠ 0) :
    r.edge p t true = { r with prevRise := t, lastEdge := t }.advance (interval p.tw t r.prevRise) :=
  if_neg h

/-- The anchor synchronises at position 0, from any state (R153). -/
theorem NvRegs.edge_anchor (h : 97 ≤ interval p.tw t r.prevRise ∧ interval p.tw t r.prevRise ≤ 107) :
    r.edge p t true = ⟨r.idle, .off, true, 0, t, t⟩ := by
  rw [edge_counted (by omega), advance, if_pos ((isAnchor_iff _).2 h)]

/-- No anchor, unsynchronised: only the reference moves (R151). -/
theorem NvRegs.edge_unsynchronised (hsync : r.sync = false) (h : plainGap p.tw t r.prevRise) :
    r.edge p t true = { r with prevRise := t, lastEdge := t } := by
  obtain ⟨hcounted, hplain⟩ := h
  rw [edge_counted hcounted, advance, if_neg (mt (isAnchor_iff _).1 hplain), if_neg (Bool.eq_false_iff.1 hsync)]

/-- No anchor, synchronised: the optimistic advance (R154, R156). -/
theorem NvRegs.edge_advance (hsync : r.sync = true) (h : plainGap p.tw t r.prevRise) :
    r.edge p t true =
      ⟨r.idle, phaseAt (nextPos r.pos.toNat), true, BitVec.ofNat 3 (nextPos r.pos.toNat), t, t⟩ := by
  obtain ⟨hcounted, hplain⟩ := h
  rw [edge_counted hcounted, advance, if_neg (mt (isAnchor_iff _).1 hplain), if_pos hsync, ← hsync]

/-- The timeout is strict (R157). -/
theorem NvRegs.idleCheck_of_lt (h : (uVal p.tw r.idle : Int) < interval p.tw t r.lastEdge) :
    r.idleCheck p t = r.drop :=
  if_pos h

theorem NvRegs.idleCheck_of_le (h : interval p.tw t r.lastEdge ≤ (uVal p.tw r.idle : Int)) :
    r.idleCheck p t = r :=
  if_neg h.not_gt

end

/-! ### The three commands -/

section
variable {s : State} {inst : Nat} {r : NvRegs}

/-- Writing back the registers that stand there changes nothing. -/
theorem State.setNv_self (h : s.nv[inst]? = some r) : s.setNv inst r = s := by
  obtain ⟨hlt, rfl⟩ := List.getElem?_eq_some_iff.1 h
  rw [State.setNv, List.set_getElem_self]

/-- What a command that answered has written is what the next one finds. -/
theorem getElem?_nv_setNv_answer (h : s.nv[inst]? = some r) (r' : NvRegs) (st : Status) (d : Word) :
    ((s.setNv inst r').answer st d).nv[inst]? = some r' :=
  List.getElem?_set_self (List.getElem?_eq_some_iff.1 h).1

theorem execNvInit_some (h : s.nv[inst]? = some r) :
    exec (.nvInit inst) s = .next ((s.setNv inst r.drop).answer .ok 0) :=
  onNv_some _ h

/-- NV_EDGE from what the edge makes of the registers. -/
theorem execNvEdge_of_edge {r' : NvRegs} {a : Word} {level : Bool} (h : s.nv[inst]? = some r)
    (hedge : r.edge s.params (timeOperand s.params a) level = r') :
    exec (.nvEdge inst a level) s = .next ((s.setNv inst r').answer .ok (r'.phase.code.setWidth 32)) := by
  subst hedge
  rw [← NvRegs.phaseWord_eq]
  exact onNv_some _ h

/-- An edge that changes nothing answers the phase as it stands. -/
theorem execNvEdge_of_unchanged {a : Word} {level : Bool} (h : s.nv[inst]? = some r)
    (hedge : r.edge s.params (timeOperand s.params a) level = r) :
    exec (.nvEdge inst a level) s = .next (s.answer .ok (r.phase.code.setWidth 32)) := by
  rw [execNvEdge_of_edge h hedge, State.setNv_self h]

/-- NV_IDLE from what the check makes of the registers. -/
theorem execNvIdle_of_idleCheck {r' : NvRegs} {a : Word} (h : s.nv[inst]? = some r)
    (hidle : r.idleCheck s.params (timeOperand s.params a) = r') :
    exec (.nvIdle inst a) s = .next ((s.setNv inst r').answer .ok (r'.phase.code.setWidth 32)) := by
  subst hidle
  rw [← NvRegs.phaseWord_eq]
  exact onNv_some _ h

end

/-- Commands that take NV[inst] from the registers `r` to `r'` and answer OK with the words `ds`, whatever the rest of
the state is. -/
def NvRun (p : Params) (inst : Nat) (r : NvRegs) (is : List Instr) (ds : List Word) (r' : NvRegs) : Prop :=
  ∀ s : State, s.params = p → s.nv[inst]? = some r →
    ∃ u, execAll is s = some (u, ds.map (Response.mk .ok)) ∧ u.nv[inst]? = some r'

section
variable {p : Params} {inst : Nat} {r r' r'' : NvRegs} {is : List Instr} {ds : List Word}

theorem nvRun_nil : NvRun p inst r [] [] r := fun s _ hr => ⟨s, rfl, hr⟩

/-- A pulse: its fall answers what its rise did and leaves the registers alone (R155). -/
theorem nvRun_pulse {rise fall : Word} (hrise : r.edge p (timeOperand p rise) true = r')
    (hrest : NvRun p inst r' is ds r'') :
    NvRun p inst r (.nvEdge inst rise true :: .nvEdge inst fall false :: is)
      (r'.phase.code.setWidth 32 :: r'.phase.code.setWidth 32 :: ds) r'' := by
  rintro s rfl hr
  have hnv := getElem?_nv_setNv_answer hr r' .ok (r'.phase.code.setWidth 32)
  obtain ⟨u, hu, hlast⟩ := hrest ((s.setNv inst r').answer .ok (r'.phase.code.setWidth 32)) rfl hnv
  exact ⟨u, execAll_cons (execNvEdge_of_edge hr hrise)
    (execAll_cons (execNvEdge_of_unchanged hnv NvRegs.edge_fall) hu), hlast⟩

end

/-! ### The shapes (R159) -/

section
variable (inst : Nat) (t : Word)

theorem Shape.commands_lo :
    Shape.lo.commands inst t = [.nvEdge inst t true, .nvEdge inst (t + 44) false] := by
  simp [commands, edges]

theorem Shape.commands_lc :
    Shape.lc.commands inst t =
      [.nvEdge inst t true, .nvEdge inst (t + 24) false, .nvEdge inst (t + 44) true,
        .nvEdge inst (t + 69) false] := by
  simp [commands, edges]

theorem Shape.commands_ro :
    Shape.ro.commands inst t =
      [.nvEdge inst t true, .nvEdge inst (t + 24) false, .nvEdge inst (t + 69) true,
        .nvEdge inst (t + 101) false] := by
  simp [commands, edges]

theorem Shape.commands_rc :
    Shape.rc.commands inst t =
      [.nvEdge inst t true, .nvEdge inst (t + 24) false, .nvEdge inst (t + 102) true,
        .nvEdge inst (t + 142) false] := by
  simp [commands, edges]

end

/-! ### A synchronised decoder at the edges of a clean cycle (R160, R161) -/

/-- The decoder synchronised at position `k`, its last rising edge at `t`. -/
def NvRegs.synced (p : Params) (k : Nat) (t : Word) (r : NvRegs) : NvRegs :=
  { r with
    phase := phaseAt k, sync := true, pos := BitVec.ofNat 3 k
    prevRise := timeOperand p t, lastEdge := timeOperand p t }

/-- The second of two timestamps counts through its low TW bits, as the first does (`interval_timeOperand`). -/
theorem interval_timeOperand_right {p : Params} (htw : p.tw ≤ 32) (t : TimeReg) (a : Word) :
    interval p.tw t (timeOperand p a) = interval p.tw t a := by
  rw [interval_eq_bmod, interval_eq_bmod, timeOperand, uVal_lowBits _ _ _ _ htw]

/-- A distance within a shape, which every legal TW holds, is measured exactly (R7, R21). -/
theorem interval_timeOperand_add_ofNat {p : Params} (hp : p.legal = true) {d : Nat} (hd : d < 2 ^ 15) (t : Word) :
    interval p.tw (timeOperand p (t + BitVec.ofNat 32 d)) (timeOperand p t) = d := by
  obtain ⟨hlo, hhi, -, -⟩ := p.legal_iff.1 hp
  obtain ⟨-, -, -, hexact⟩ := intervalIsModularDistance p.tw 0 t hlo hhi
  rw [interval_timeOperand_right hhi]
  exact hexact d (hd.trans_le (Nat.pow_le_pow_right two_pos (by omega)))

/-- Two rising edges less than 97 µs apart, as within left-close and right-open, are counted and no anchor (R160). -/
theorem plainGap_timeOperand_add_ofNat {p : Params} (hp : p.legal = true) {d : Nat} (hpos : 0 < d) (hd : d < 97)
    (t : Word) : plainGap p.tw (timeOperand p (t + BitVec.ofNat 32 d)) (timeOperand p t) := by
  rw [plainGap, interval_timeOperand_add_ofNat hp (by omega)]
  omega

/-! A gap is the same between the timestamps as the decoder holds them. -/

theorem plainGap_timeOperand_left {p : Params} (htw : p.tw ≤ 32) {a : Word} {q : TimeReg} (h : plainGap p.tw a q) :
    plainGap p.tw (timeOperand p a) q := by
  rwa [plainGap, interval_timeOperand htw]

theorem plainGap_timeOperand {p : Params} (htw : p.tw ≤ 32) {a b : Word} (h : plainGap p.tw a b) :
    plainGap p.tw (timeOperand p a) (timeOperand p b) := by
  rw [plainGap, interval_timeOperand_right htw]
  exact plainGap_timeOperand_left htw h

section
variable {p : Params} {r : NvRegs} {t : Word}

/-- A plain rising edge takes a synchronised decoder to the next position, whatever its phase was (R154). -/
theorem NvRegs.edge_eq_synced {k : Nat} (hsync : r.sync = true) (hpos : r.pos.toNat = k) (hk : k < 6)
    (hgap : plainGap p.tw (timeOperand p t) r.prevRise) :
    r.edge p (timeOperand p t) true = r.synced p (k + 1) t := by
  rw [edge_advance hsync hgap, hpos, nextPos, if_pos hk]
  rfl

theorem NvRegs.edge_synced {k : Nat} {t₀ : Word} (hk : k < 6)
    (hgap : plainGap p.tw (timeOperand p t) (timeOperand p t₀)) :
    (r.synced p k t₀).edge p (timeOperand p t) true = r.synced p (k + 1) t := by
  have hpos : (r.synced p k t₀).pos.toNat = k := by
    rw [synced, BitVec.toNat_ofNat]
    omega
  exact edge_eq_synced rfl hpos hk hgap

/-- Right-close's second rising edge is the anchor, from any position (R153, R160). -/
theorem NvRegs.edge_synced_anchor (hp : p.legal = true) (k : Nat) :
    (r.synced p k t).edge p (timeOperand p (t + 102)) true = r.synced p 0 (t + 102) := by
  have hdist : interval p.tw (timeOperand p (t + 102)) (r.synced p k t).prevRise = 102 :=
    interval_timeOperand_add_ofNat hp (by decide) t
  exact edge_anchor (by omega)

end

/-! ### The statements -/

/-- Settles O38: the cycle is seven pulses (`nvRun_pulse`), whose rising edges take the positions 1 to 6 and then meet
the anchor. -/
theorem nvCleanCycleGivesThePhases : Obligations.NvCleanCycleGivesThePhases := by
  intro s inst r lo lc ro rc hp hr hsync hpos hlo hlc hro hrc
  obtain ⟨-, htw, -, -⟩ := s.params.legal_iff.1 hp
  have hlo₁ : r.edge s.params (timeOperand s.params lo) true = r.synced s.params 1 lo :=
    NvRegs.edge_eq_synced hsync (congrArg BitVec.toNat hpos) (by decide) (plainGap_timeOperand_left htw hlo)
  have hlc₁ := NvRegs.edge_synced (r := r) (k := 1) (by decide) (plainGap_timeOperand htw hlc)
  have hlc₂ := NvRegs.edge_synced (r := r) (k := 2) (by decide)
    (plainGap_timeOperand_add_ofNat hp (d := 44) (by decide) (by decide) lc)
  have hro₁ := NvRegs.edge_synced (r := r) (k := 3) (by decide) (plainGap_timeOperand htw hro)
  have hro₂ := NvRegs.edge_synced (r := r) (k := 4) (by decide)
    (plainGap_timeOperand_add_ofNat hp (d := 69) (by decide) (by decide) ro)
  have hrc₁ := NvRegs.edge_synced (r := r) (k := 5) (by decide) (plainGap_timeOperand htw hrc)
  have hrc₂ := NvRegs.edge_synced_anchor (r := r) (t := rc) hp 6
  rw [Shape.commands_lo, Shape.commands_lc, Shape.commands_ro, Shape.commands_rc]
  obtain ⟨u, hu, hnv⟩ := (nvRun_pulse hlo₁ <| nvRun_pulse hlc₁ <| nvRun_pulse hlc₂ <| nvRun_pulse hro₁ <|
    nvRun_pulse hro₂ <| nvRun_pulse hrc₁ <| nvRun_pulse hrc₂ nvRun_nil) s rfl hr
  exact ⟨u, _, hu, hnv, rfl, rfl, rfl⟩

/-- Settles O36, by the edge's cases; the eight positions are the rows of R151's table, the optimistic advance. -/
theorem nvEdgeTransitions : Obligations.NvEdgeTransitions := by
  intro s inst a b
  refine ⟨fun hinst => decode_nvEdge hinst a b,
    rejectsFields_badOneInst (opc := 0x09) (by decide) (by decide) (by decide) s a b, fun r d hr hd => ?_,
    fun hinst _ => onNv_none _ hinst⟩
  subst hd
  refine ⟨execNvEdge_of_unchanged hr NvRegs.edge_fall,
    fun hrepeated => execNvEdge_of_unchanged hr (NvRegs.edge_repeated hrepeated),
    fun hanchor => execNvEdge_of_edge hr (NvRegs.edge_anchor hanchor),
    fun hcounted hplain hsync => execNvEdge_of_edge hr (NvRegs.edge_unsynchronised hsync ⟨hcounted, hplain⟩),
    fun pos phase data hcounted hplain hsync hrow => ?_⟩
  obtain ⟨hpos, hphase, hdata⟩ := (by decide : ∀ row ∈ (_ : List (BitVec 3 × BitVec 3 × NvPhase × Word)),
    row.2.1 = BitVec.ofNat 3 (nextPos row.1.toNat) ∧ row.2.2.1 = phaseAt (nextPos row.1.toNat) ∧
      row.2.2.2 = row.2.2.1.code.setWidth 32) _ hrow
  dsimp only at hpos hphase hdata
  rw [hdata, hphase, hpos]
  exact execNvEdge_of_edge hr (NvRegs.edge_advance hsync ⟨hcounted, hplain⟩)

/-- Settles O35, by NV_INIT's equation. -/
theorem nvInitDropsTheSynchronisation : Obligations.NvInitDropsTheSynchronisation := fun s inst a b =>
  ⟨fun hinst => decode_nvInit hinst a b,
    rejectsFields_badOneInst (opc := 0x08) (by decide) (by decide) (by decide) s a b,
    fun _ hr => execNvInit_some hr, onNv_none _⟩

/-- Settles O37: the check drops the synchronisation or leaves the registers as they stand. -/
theorem nvIdleTimesOut : Obligations.NvIdleTimesOut := by
  intro s inst a b
  refine ⟨fun hinst => decode_nvIdle hinst a b,
    rejectsFields_badOneInst (opc := 0x0A) (by decide) (by decide) (by decide) s a b, fun r elapsed hr helapsed => ?_,
    onNv_none _⟩
  subst helapsed
  refine ⟨fun hlt => execNvIdle_of_idleCheck hr (NvRegs.idleCheck_of_lt hlt), fun hle => ?_⟩
  rw [execNvIdle_of_idleCheck hr (NvRegs.idleCheck_of_le hle), State.setNv_self hr]
  rfl

end Sys2Proof.Machine
end

section
/-! PROOFS. The ZeroCrossingInterpolator statements (43_zero_crossing_interpolator.md): its two commands, where the
crossing time lies, and samples of equal timestamps. -/

namespace Sys2Proof.Machine

/-! ### The crossing time (R184, R185) -/

/-- The quotient is the same from either of the two samples: both its terms change sign. -/
theorem crossingTime_comm (t0 t1 : Nat) (f0 f1 : Int) : crossingTime t0 t1 f0 f1 = crossingTime t1 t0 f1 f0 := by
  rw [crossingTime, crossingTime, floorDiv, floorDiv, ← Int.neg_fdiv_neg, neg_sub, neg_sub]

/-- From a negative sample to a non-negative one, the crossing time is the floor of a weighted mean of the timestamps:
their weights are `f1` and `-f0`. -/
theorem crossingTime_bounds_of_rising {t0 t1 lo hi : Nat} {f0 f1 : Int} (h0 : f0 < 0) (h1 : 0 ≤ f1)
    (hlo0 : lo ≤ t0) (hlo1 : lo ≤ t1) (hhi0 : t0 ≤ hi) (hhi1 : t1 ≤ hi) :
    (lo : Int) ≤ crossingTime t0 t1 f0 f1 ∧ crossingTime t0 t1 f0 f1 ≤ hi := by
  have hd : 0 < f1 - f0 := by omega
  zify at hlo0 hlo1 hhi0 hhi1
  rw [crossingTime, floorDiv, Int.fdiv_eq_ediv_of_nonneg _ hd.le]
  constructor
  · apply Int.le_ediv_of_mul_le hd
    linarith [mul_le_mul_of_nonneg_left hlo0 h1, mul_le_mul_of_nonpos_left hlo1 h0.le]
  · apply Int.ediv_le_of_le_mul hd
    linarith [mul_le_mul_of_nonneg_left hhi0 h1, mul_le_mul_of_nonpos_left hhi1 h0.le]

/-- R185 for samples of different sign classes. -/
theorem crossingTime_bounds {f0 f1 : Int} (hcross : crosses f0 f1 = true) (t0 t1 : Nat) :
    (min t0 t1 : Nat) ≤ crossingTime t0 t1 f0 f1 ∧ crossingTime t0 t1 f0 f1 ≤ (max t0 t1 : Nat) := by
  rw [crosses_iff] at hcross
  rcases lt_or_ge f0 0 with h0 | h0
  · exact crossingTime_bounds_of_rising h0 (by omega) (min_le_left ..) (min_le_right ..) (le_max_left ..)
      (le_max_right ..)
  · rw [crossingTime_comm]
    exact crossingTime_bounds_of_rising (by omega) h0 (min_le_right ..) (min_le_left ..) (le_max_right ..)
      (le_max_left ..)

/-- A number an n-bit pattern can hold is read back as it was written. -/
theorem uVal_wrapTo_of_range {n w : Nat} {x : Int} (hnw : n ≤ w) (hlo : 0 ≤ x) (hhi : x < (2 : Int) ^ n) :
    (uVal n (wrapTo n x : BitVec w) : Int) = x := by
  rw [uVal, wrapTo, BitVec.setWidth_setWidth_of_le _ hnw, BitVec.setWidth_eq, BitVec.toNat_ofInt, Nat.cast_pow,
    Nat.cast_ofNat, Int.toNat_of_nonneg (Int.emod_nonneg _ (by positivity)), Int.emod_eq_of_lt hlo hhi]

/-- LASTX holds the crossing time unwrapped (R185). -/
theorem ZxRegs.uVal_feed_lastX {p : Params} (htw : p.tw ≤ 32) {f : SampleReg} {r : ZxRegs}
    (hcross : r.crossing p f = true) (t : TimeReg) :
    (uVal p.tw (r.feed p t f).lastX : Int) =
      crossingTime (uVal p.tw r.prevT) (uVal p.tw t) (sVal p.sw r.prevF) (sVal p.sw f) := by
  obtain ⟨hlo, hhi⟩ := crossingTime_bounds hcross (uVal p.tw r.prevT) (uVal p.tw t)
  have hmax : ((max (uVal p.tw r.prevT) (uVal p.tw t) : Nat) : Int) < 2 ^ p.tw := by
    exact_mod_cast max_lt (uVal_lt ..) (uVal_lt ..)
  rw [ZxRegs.feed, if_pos hcross]
  exact uVal_wrapTo_of_range htw ((Int.natCast_nonneg _).trans hlo) (hhi.trans_lt hmax)

/-! ### The two commands -/

section
variable {s : State} {inst : Nat} {r : ZxRegs}

/-- What a command that answered has written is what the next one finds. -/
theorem getElem?_zx_setZx_answer (h : s.zx[inst]? = some r) (r' : ZxRegs) (st : Status) (d : Word) :
    ((s.setZx inst r').answer st d).zx[inst]? = some r' :=
  List.getElem?_set_self (List.getElem?_eq_some_iff.1 h).1

/-- A ZX_FEED that answered 1 has found a crossing and stored what the feed makes of the registers. -/
theorem crossing_of_execZxFeed {u : State} {a b : Word} (h : s.zx[inst]? = some r)
    (hu : exec (.zxFeed inst a b) s = .next u) (hport : u.port = .answered ⟨.ok, 1⟩) :
    r.crossing s.params (sampleOperand s.params b) = true ∧
      u.zx[inst]? = some (r.feed s.params (timeOperand s.params a) (sampleOperand s.params b)) := by
  rw [execZxFeed_some h] at hu
  cases hu
  simp only [State.answer_port, Port.answered.injEq, Response.mk.injEq, true_and] at hport
  exact ⟨(boolWord_eq_one_iff _).1 hport, getElem?_zx_setZx_answer h _ _ _⟩

end

/-- A sample fed again is in its own sign class, so there is no second crossing (R188). -/
theorem ZxRegs.feed_not_crossing (p : Params) (t : TimeReg) (f : SampleReg) (r : ZxRegs) :
    (r.feed p t f).crossing p f = false :=
  (ZxRegs.crossing_eq_false_iff ..).2 Iff.rfl

/-- The operand word carries a sample of at most 32 bits whole (R82). -/
theorem sampleOperand_of_le {p : Params} (hsw : p.sw ≤ 32) (b : Word) : sampleOperand p b = lowBits p.sw b :=
  if_pos hsw

/-! ### The statements -/

/-- Settles O43: LASTX holds R184's quotient unwrapped, which `crossingTime_bounds` places. -/
theorem zxCrossingTimeLiesBetween : Obligations.ZxCrossingTimeLiesBetween := by
  intro s u inst a b r hp hr hu hport
  obtain ⟨-, htw, -, -⟩ := s.params.legal_iff.1 hp
  obtain ⟨hcross, hstored⟩ := crossing_of_execZxFeed hr hu hport
  have hlast := ZxRegs.uVal_feed_lastX htw hcross (timeOperand s.params a)
  have hbounds := crossingTime_bounds hcross (uVal s.params.tw r.prevT) (uVal s.params.tw (timeOperand s.params a))
  rw [← hlast] at hbounds
  rw [timeOperand, uVal_lowBits _ _ _ _ htw] at hlast hbounds
  exact ⟨_, _, hstored, rfl, hlast, by exact_mod_cast hbounds⟩

/-- Settles O44: between equal timestamps there is only the one crossing time, by O43; the second feed meets the sample
it would store. -/
theorem zxEqualTimestamps : Obligations.ZxEqualTimestamps := by
  intro s inst a b r hp hr
  refine ⟨fun u hsame hu hport => ?_, ?_⟩
  · obtain ⟨-, htw, -, -⟩ := s.params.legal_iff.1 hp
    obtain ⟨r', zx, hr', hzx, -, hlo, hhi⟩ := zxCrossingTimeLiesBetween s u inst a b r hp hr hu hport
    rw [hsame, uVal_lowBits _ _ _ _ htw] at hlo hhi
    exact ⟨r', hr', by omega⟩
  · have hsecond := execZxFeed_some (getElem?_zx_setZx_answer hr
      (r.feed s.params (timeOperand s.params a) (sampleOperand s.params b)) .ok
      (boolWord (r.crossing s.params (sampleOperand s.params b)))) a b
    simp only [State.answer_params, State.setZx_params, ZxRegs.feed_not_crossing, boolWord_false] at hsecond
    exact ⟨_, _, execAll_cons (execZxFeed_some hr a b) (execAll_cons hsecond rfl)⟩

/-- Settles O41: O42's equation of ZX_FEED at the sample B carries, with its branch taken by the sign classes. -/
theorem zxFeedInterpolates : Obligations.ZxFeedInterpolates := by
  intro s inst a b
  refine ⟨fun hinst => decodeEncodeRoundTrip (.zxFeed inst a b) (decide_eq_true hinst),
    rejectsFields_badOneInst (opc := 0x0D) (by decide) (by decide) (by decide) s a b,
    fun r t0 t1 f0 f1 hr hsw ht0 ht1 hf0 hf1 => ?_, onZx_none _⟩
  have hf1' : f1 = sVal s.params.sw (lowBits s.params.sw b : SampleReg) := by
    rw [hf1, sVal_lowBits _ _ _ _ (hsw.trans (by decide))]
  obtain ⟨-, hfeed, -⟩ := zxEverySampleWidth s inst a b r _ t0 t1 f0 f1 hr (sampleOperand_of_le hsw b).symm ht0 ht1
    hf0 hf1'
  refine ⟨fun hcross => ?_, fun hsame => ?_⟩
  · have hclasses : ¬ (f0 < 0 ↔ f1 < 0) := by omega
    rwa [if_neg hclasses, if_neg hclasses] at hfeed
  · have hclasses : f0 < 0 ↔ f1 < 0 := by omega
    rwa [if_pos hclasses, if_pos hclasses] at hfeed

/-- Settles O40, by ZX_INIT's equation at the sample B carries. -/
theorem zxInitStoresThePair : Obligations.ZxInitStoresThePair := fun s inst a b =>
  ⟨fun hinst => decodeEncodeRoundTrip (.zxInit inst a b) (decide_eq_true hinst),
    rejectsFields_badOneInst (opc := 0x0C) (by decide) (by decide) (by decide) s a b,
    fun _ hr hsw => sampleOperand_of_le hsw b ▸ execZxInit_some hr a b, onZx_none _⟩

end Sys2Proof.Machine
end

section
/-! PROOFS. The CycleTracker statements (44_cycle_tracker.md): its eight commands, the comparison of two trackers, and
what repeated marks make of the average. -/

namespace Sys2Proof.Machine

/-! ### The headers of the CT opcodes (R84 to R88) -/

/-- A row of the opcode map with one index decodes to what the row makes of the index and the operand words. -/
theorem decode_of_oneInst_row {opc inst : Nat} (row : Nat → Word → Word → Instr) (ho : opc < 32) (hi : inst < 16)
    (hrow : ∀ c : Command, c.opc = opc → decodeOpcode c = oneInst c (row c.inst c.a c.b)) (a b : Word) :
    decode ⟨header opc 0 inst, a, b⟩ = .ok (row inst a b) := by
  obtain ⟨hopc, hrsv, hinstb, hinst⟩ := header_fields (instb := 0) ho (by decide) hi a b
  rw [decode_of_rsv hrsv, hrow _ hopc, oneInst_of_instb hinstb, hinst]

theorem decode_ctSpeedclose {inst instb : Nat} (h : inst < 16) (hb : instb < 16) (a b : Word) :
    decode ⟨header 0x16 instb inst, a, b⟩ = .ok (.ctSpeedclose inst instb a) :=
  decode_header (by decide) hb h fun _ hopc hinstb hinst ha => by
    simp only [decodeOpcode, hopc, hinst, hinstb, ha]

theorem decode_ctAvgclose {inst instb : Nat} (h : inst < 16) (hb : instb < 16) (a b : Word) :
    decode ⟨header 0x17 instb inst, a, b⟩ = .ok (.ctAvgclose inst instb a) :=
  decode_header (by decide) hb h fun _ hopc hinstb hinst ha => by
    simp only [decodeOpcode, hopc, hinst, hinstb, ha]

/-- Every opcode refuses RSV nonzero (R86). -/
theorem rejectsFields_badTwoInst {opc : Nat} (hopc : opc < 32) (s : State) (a b : Word) :
    rejectsFields (opc * 2048) badTwoInst s a b := by
  intro rsv instb inst hrsv hinstb hinst hbad
  obtain ⟨-, hcrsv, -, -⟩ := pattern_fields hopc hrsv hinstb hinst a b
  exact runCommand_of_reject (if_neg (by rwa [hcrsv])) s

/-! ### The average in exact integers (R204, R205, R207) -/

/-- R205's step of the scaled average `v` with weight `d` towards the interval `n`. -/
def averageStep (d n v : Int) : Int := v + n - v.fdiv d

section
variable {d n v : Int}

/-- The average reads `n`, or it is below every value that does, or above every one. -/
theorem fdiv_eq_or_lt_or_ge (hd : 0 < d) (n v : Int) : v.fdiv d = n ∨ v < n * d ∨ (n + 1) * d ≤ v := by
  rw [Int.fdiv_eq_ediv_of_nonneg _ hd.le, ← Int.ediv_lt_iff_lt_mul hd, ← Int.le_ediv_iff_mul_le hd]
  omega

/-- An average that reads the interval stays (R207). -/
theorem averageStep_of_fdiv_eq (h : v.fdiv d = n) : averageStep d n v = v := by
  rw [averageStep, h, add_sub_cancel_right]

/-- Below the interval the average rises and does not pass it: where it reads `q`, the step adds `n - q`, and it is at
least `(n - q - 1) * d + 1` short. -/
theorem averageStep_of_lt (hd : 0 < d) (h : v < n * d) : v < averageStep d n v ∧ averageStep d n v ≤ n * d := by
  have hread : v / d < n := (Int.ediv_lt_iff_lt_mul hd).2 h
  have hrem := Int.emod_lt_of_pos v hd
  have hdiv := Int.mul_ediv_add_emod v d
  rw [averageStep, Int.fdiv_eq_ediv_of_nonneg _ hd.le]
  constructor
  · omega
  · nlinarith [mul_nonneg (Int.sub_nonneg_of_le hread) (Int.sub_nonneg_of_le hd)]

/-- Above the interval the average falls and does not pass it. -/
theorem averageStep_of_ge (hd : 0 < d) (h : (n + 1) * d ≤ v) : n * d ≤ averageStep d n v ∧ averageStep d n v < v := by
  have hread : n + 1 ≤ v / d := (Int.le_ediv_iff_mul_le hd).2 h
  have hrem := Int.emod_nonneg v hd.ne'
  have hdiv := Int.mul_ediv_add_emod v d
  rw [averageStep, Int.fdiv_eq_ediv_of_nonneg _ hd.le]
  constructor
  · nlinarith [mul_nonneg (Int.sub_nonneg_of_le hread) (Int.sub_nonneg_of_le hd)]
  · omega

/-- A range that holds the average and the interval's seed holds the next average. -/
theorem averageStep_mem_range {lo hi : Int} (hd : 0 < d) (hv : lo ≤ v ∧ v < hi) (hseed : lo ≤ n * d ∧ n * d < hi) :
    lo ≤ averageStep d n v ∧ averageStep d n v < hi := by
  rcases fdiv_eq_or_lt_or_ge hd n v with h | h | h
  · rwa [averageStep_of_fdiv_eq h]
  · have hstep := averageStep_of_lt hd h
    omega
  · have hstep := averageStep_of_ge hd h
    omega

/-- An average that does not read the interval comes strictly closer to its seed. -/
theorem natAbs_averageStep_sub_lt (hd : 0 < d) (h : v.fdiv d ≠ n) :
    (averageStep d n v - n * d).natAbs < (v - n * d).natAbs := by
  rcases fdiv_eq_or_lt_or_ge hd n v with heq | hlt | hge
  · exact absurd heq h
  · have hstep := averageStep_of_lt hd hlt
    omega
  · have hstep := averageStep_of_ge hd hge
    omega

/-- After as many steps as the average was away from the interval's seed, it reads the interval and keeps to it. -/
theorem fdiv_iterate_averageStep (hd : 0 < d) {k : Nat} (hk : (v - n * d).natAbs ≤ k) :
    ((averageStep d n)^[k] v).fdiv d = n := by
  induction k generalizing v with
  | zero =>
    by_contra (hread : v.fdiv d ≠ n)
    have hcloser := natAbs_averageStep_sub_lt hd hread
    omega
  | succ k ih =>
    by_cases hread : v.fdiv d = n
    · rwa [Function.iterate_fixed (averageStep_of_fdiv_eq hread)]
    · have hcloser := natAbs_averageStep_sub_lt hd hread
      rw [Function.iterate_succ_apply]
      exact ih (by omega)

end

/-! ### A tracker's smoothed length (R204, R205, R212) -/

theorem CtRegs.smoothUs_eq (p : Params) (r : CtRegs) :
    r.smoothUs p = (sVal (p.tw + 15) r.smooth).fdiv (2 ^ r.e.toNat) := by
  rw [smoothUs, sra, Int.shiftRight_eq_div_pow, Int.fdiv_eq_ediv_of_nonneg _ (by positivity), Nat.cast_pow,
    Nat.cast_ofNat, Params.smw]

theorem CtRegs.average_eq (p : Params) (n : Int) (r : CtRegs) :
    r.average p n = wrapTo (p.tw + 15) (averageStep (2 ^ r.e.toNat) n (sVal (p.tw + 15) r.smooth)) := by
  rw [average, smoothUs_eq, averageStep, Params.smw]

section
variable {p : Params} {r : CtRegs}

/-- The second mark seeds the average (R204). -/
theorem CtRegs.mark_of_oneSample (h : r.lifecycle p = .oneSample) (t : TimeReg) :
    r.mark p t = ⟨r.e, wrapTo p.tw (interval p.tw t r.lastMark), t, r.seed p (interval p.tw t r.lastMark)⟩ := by
  simp only [mark, h]

/-- A running mark moves the average (R205). -/
theorem CtRegs.mark_of_running (h : r.lifecycle p = .running) (t : TimeReg) :
    r.mark p t = ⟨r.e, wrapTo p.tw (interval p.tw t r.lastMark), t, r.average p (interval p.tw t r.lastMark)⟩ := by
  simp only [mark, h]

@[simp] theorem CtRegs.mark_e (p : Params) (t : TimeReg) (r : CtRegs) : (r.mark p t).e = r.e := by
  unfold mark
  split <;> rfl

/-- SMOOTH's 15 bits beyond TW hold every interval's seed, for every E (R7, R204). -/
theorem seed_mem_range (tw : Nat) (htw : 0 < tw) (t q : TimeReg) (e : BitVec 4) :
    -(2 : Int) ^ (tw + 14) ≤ interval tw t q * 2 ^ e.toNat ∧ interval tw t q * 2 ^ e.toNat < 2 ^ (tw + 14) := by
  have hscale : (2 : Int) ^ e.toNat ≤ 2 ^ 15 := pow_le_pow_right₀ (by decide) (Nat.le_of_lt_succ e.isLt)
  have hbound : (2 : Int) ^ (tw - 1) * 2 ^ e.toNat ≤ 2 ^ (tw + 14) := by
    calc (2 : Int) ^ (tw - 1) * 2 ^ e.toNat
        ≤ 2 ^ (tw - 1) * 2 ^ 15 := mul_le_mul_of_nonneg_left hscale (by positivity)
      _ = 2 ^ (tw + 14) := by rw [← pow_add]; congr 1; omega
  have hpos : (0 : Int) < 2 ^ e.toNat := by positivity
  have hlo := mul_le_mul_of_nonneg_right (neg_le_interval tw t q) hpos.le
  have hhi := mul_lt_mul_of_pos_right (interval_lt tw t q) hpos
  rw [neg_mul] at hlo
  omega

/-- The second mark leaves the seed exactly (R204). -/
theorem CtRegs.sVal_mark_smooth_of_oneSample (hp : p.legal = true) (h : r.lifecycle p = .oneSample) (t : TimeReg) :
    sVal (p.tw + 15) (r.mark p t).smooth = interval p.tw t r.lastMark * 2 ^ r.e.toNat := by
  obtain ⟨hlo, hhi, -, -⟩ := p.legal_iff.1 hp
  obtain ⟨hseedLo, hseedHi⟩ := seed_mem_range p.tw (by omega) t r.lastMark r.e
  rw [mark_of_oneSample h]
  exact sVal_wrapTo_of_range (by omega) (by omega) hseedLo hseedHi

/-- A running mark leaves R205's step exactly: SMOOTH does not overflow (R207). -/
theorem CtRegs.sVal_mark_smooth_of_running (hp : p.legal = true) (h : r.lifecycle p = .running) (t : TimeReg) :
    sVal (p.tw + 15) (r.mark p t).smooth =
      averageStep (2 ^ r.e.toNat) (interval p.tw t r.lastMark) (sVal (p.tw + 15) r.smooth) := by
  obtain ⟨hlo, hhi, -, -⟩ := p.legal_iff.1 hp
  obtain ⟨hstepLo, hstepHi⟩ := averageStep_mem_range (d := 2 ^ r.e.toNat) (by positivity)
    ⟨BitVec.le_toInt (r.smooth.setWidth (p.tw + 15)), BitVec.toInt_lt⟩
    (seed_mem_range p.tw (by omega) t r.lastMark r.e)
  rw [mark_of_running h, average_eq]
  exact sVal_wrapTo_of_range (by omega) (by omega) hstepLo hstepHi

/-- A positive interval keeps a tracker running (R206). -/
theorem CtRegs.mark_lifecycle_of_running (hp : p.legal = true) (h : r.lifecycle p = .running) {t : TimeReg}
    (hpos : 0 < interval p.tw t r.lastMark) : (r.mark p t).lifecycle p = .running := by
  rw [lifecycle_eq_running_iff, sVal_mark_cycle_of_seen hp (by rw [h]; decide)]
  exact hpos

end

/-! ### CT_INIT and the reading commands (R200, R208 to R215) -/

section
variable {s : State} {inst instb : Nat} {r x y : CtRegs}

theorem execCtInit_some (h : s.ct[inst]? = some r) :
    exec (.ctInit inst) s = .next ((s.setCt inst { r with cycle := 0 }).answer .ok 0) :=
  onCt_some _ h

theorem execCtIsvalid_some (h : s.ct[inst]? = some r) :
    exec (.ctIsvalid inst) s = .next (s.answer .ok (if 0 < sVal s.params.tw r.cycle then 1 else 0)) := by
  rw [← boolWord_eq_ite_of_iff decide_eq_true_iff]
  exact readCt_some _ h

theorem execCtIsrotating_some (h : s.ct[inst]? = some r) (a b : Word) :
    exec (.ctIsrotating inst a b) s = .next (s.answer .ok
      (if interval s.params.tw (timeOperand s.params a) r.lastMark < (durationOperand s.params b : Int) then 1
        else 0)) := by
  rw [← boolWord_eq_ite_of_iff decide_eq_true_iff]
  exact readCt_some _ h

theorem execCtCycleus_some (h : s.ct[inst]? = some r) :
    exec (.ctCycleus inst) s = .next (s.answer .ok (sextTo 32 s.params.tw r.cycle)) :=
  readCt_some _ h

/-- A number wrapped to the whole of its register. -/
theorem wrapTo_self (n : Nat) (x : Int) : (wrapTo n x : BitVec n) = BitVec.ofInt n x := BitVec.setWidth_eq _

theorem execCtSmoothus_some (h : s.ct[inst]? = some r) :
    exec (.ctSmoothus inst) s = .next (s.answer .ok
      (BitVec.ofInt 32 ((sVal (s.params.tw + 15) r.smooth).fdiv (2 ^ r.e.toNat)))) := by
  rw [← CtRegs.smoothUs_eq, ← wrapTo_self]
  exact readCt_some _ h

theorem boolWord_closeTo (x y : Int) (a : Word) :
    boolWord (closeTo x y (fractionOperand a)) = if |x - y| * (a.toNat : Int) ≤ x then 1 else 0 := by
  rw [Int.abs_eq_natAbs]
  exact boolWord_eq_ite_of_iff decide_eq_true_iff

theorem execCtSpeedclose_some (hx : s.ct[inst]? = some x) (hy : s.ct[instb]? = some y) (a : Word) :
    exec (.ctSpeedclose inst instb a) s = .next (s.answer .ok
      (if |sVal s.params.tw x.cycle - sVal s.params.tw y.cycle| * (a.toNat : Int) ≤ sVal s.params.tw x.cycle then 1
        else 0)) := by
  rw [← boolWord_closeTo]
  exact readTwoCt_some _ hx hy

theorem execCtAvgclose_some (hx : s.ct[inst]? = some x) (hy : s.ct[instb]? = some y) (a : Word) :
    exec (.ctAvgclose inst instb a) s = .next (s.answer .ok
      (if |x.smoothUs s.params - y.smoothUs s.params| * (a.toNat : Int) ≤ x.smoothUs s.params then 1 else 0)) := by
  rw [← boolWord_closeTo]
  exact readTwoCt_some _ hx hy

end

/-! ### Marks a constant interval apart (R207) -/

/-- A distance below 2^(TW−1) is measured exactly, the counter wrapping at 2^TW (R21). -/
theorem interval_timeOperand_add_of_lt {p : Params} (hp : p.legal = true) {n : Nat} (hn : n < 2 ^ (p.tw - 1))
    (t : Word) : interval p.tw (timeOperand p (t + BitVec.ofNat 32 n)) (timeOperand p t) = n := by
  obtain ⟨hlo, hhi, -, -⟩ := p.legal_iff.1 hp
  obtain ⟨-, -, -, hexact⟩ := intervalIsModularDistance p.tw 0 t hlo hhi
  rw [interval_timeOperand_right hhi]
  exact hexact n hn

/-- The first of the marks is `n` after `t`, and the others are as many marks after it. -/
theorem evenMarks_succ (inst : Nat) (t : Word) (n k : Nat) :
    evenMarks inst t n (k + 1) =
      .ctUpdate inst (t + BitVec.ofNat 32 n) :: evenMarks inst (t + BitVec.ofNat 32 n) n k := by
  have htime : ∀ j, t + BitVec.ofNat 32 ((j + 1 + 1) * n) =
      t + BitVec.ofNat 32 n + BitVec.ofNat 32 ((j + 1) * n) := fun j => by
    rw [BitVec.add_assoc, ← BitVec.ofNat_add, Nat.succ_mul (j + 1), Nat.add_comm n]
  simp only [evenMarks, List.range_succ_eq_map, List.map_cons, List.map_map, Function.comp_def, Nat.succ_eq_add_one,
    htime, Nat.zero_add, Nat.one_mul]

/-- On a running tracker, each of the marks answers OK and takes one step of the average, which CT_SMOOTHUS then
reads. -/
theorem execAll_evenMarks_ctSmoothus {inst n : Nat} (hpos : 0 < n) (k : Nat) {s : State} {t : Word} {r : CtRegs}
    (hp : s.params.legal = true) (hn : n < 2 ^ (s.params.tw - 1)) (hr : s.ct[inst]? = some r)
    (hrun : r.lifecycle s.params = .running) (hlast : r.lastMark = timeOperand s.params t) :
    ∃ u, execAll (evenMarks inst t n k ++ [.ctSmoothus inst]) s =
      some (u, List.replicate k ⟨.ok, 0⟩ ++
        [⟨.ok, BitVec.ofInt 32 (((averageStep (2 ^ r.e.toNat) n)^[k] (sVal (s.params.tw + 15) r.smooth)).fdiv
          (2 ^ r.e.toNat))⟩]) := by
  induction k generalizing s t r with
  | zero =>
    rw [Function.iterate_zero_apply]
    exact ⟨_, execAll_cons (execCtSmoothus_some hr) rfl⟩
  | succ k ih =>
    have hinterval : interval s.params.tw (timeOperand s.params (t + BitVec.ofNat 32 n)) r.lastMark = n := by
      rw [hlast, interval_timeOperand_add_of_lt hp hn]
    have hsmooth := CtRegs.sVal_mark_smooth_of_running hp hrun (timeOperand s.params (t + BitVec.ofNat 32 n))
    have hrun' := CtRegs.mark_lifecycle_of_running hp hrun (t := timeOperand s.params (t + BitVec.ofNat 32 n))
      (by omega)
    obtain ⟨u, hu⟩ := ih (s := (s.setCt inst (r.mark s.params _)).answer .ok 0) hp hn (getElem?_ct_setCt hr _) hrun'
      (CtRegs.mark_lastMark ..)
    simp only [State.answer_params, State.setCt_params, CtRegs.mark_e, hsmooth, hinterval,
      ← Function.iterate_succ_apply] at hu
    rw [evenMarks_succ]
    exact ⟨u, execAll_cons (execCtUpdate_some hr _) hu⟩

/-! ### The statements -/

/-- Settles O50: each mark is a step of the average, and it reads the interval after as many steps as it was away from
the interval's seed (`fdiv_iterate_averageStep`). -/
theorem ctAverageConverges : Obligations.CtAverageConverges := by
  intro s inst t r n hp hr hrun hlast hpos hn
  refine ⟨(sVal (s.params.tw + 15) r.smooth - n * 2 ^ r.e.toNat).natAbs, fun k hk => ?_⟩
  obtain ⟨u, hu⟩ := execAll_evenMarks_ctSmoothus hpos k hp hn hr hrun hlast
  rw [fdiv_iterate_averageStep (by positivity) hk, BitVec.ofInt_natCast] at hu
  exact ⟨u, hu⟩

/-- Settles O49: the three ranges of SMOOTH are those of `averageStep`. -/
theorem ctAverageMovesTowardsTheInterval : Obligations.CtAverageMovesTowardsTheInterval := by
  intro s u inst a r n v hp hr hn _ hrun hv hu
  obtain ⟨-, htw, -, -⟩ := s.params.legal_iff.1 hp
  rw [execCtUpdate_some hr] at hu
  cases hu
  have hsmooth := CtRegs.sVal_mark_smooth_of_running hp hrun (timeOperand s.params a)
  rw [interval_timeOperand htw, ← hn, ← hv] at hsmooth
  exact ⟨_, _, getElem?_ct_setCt hr _, hsmooth.symm, averageStep_of_fdiv_eq, averageStep_of_lt (by positivity),
    averageStep_of_ge (by positivity)⟩

/-- Settles O48: the second mark leaves the seed, which reads the interval, so that a running mark keeps it. -/
theorem ctConstantIntervalIsFixedPoint : Obligations.CtConstantIntervalIsFixedPoint := by
  intro s u inst a r n hp hr hn _ hu hstage
  obtain ⟨-, htw, -, -⟩ := s.params.legal_iff.1 hp
  have hread : (n * 2 ^ r.e.toNat).fdiv (2 ^ r.e.toNat) = n := Int.mul_fdiv_cancel _ (by positivity)
  have hinterval : interval s.params.tw (timeOperand s.params a) r.lastMark = n := by
    rw [interval_timeOperand htw, hn]
  have hsmooth : sVal (s.params.tw + 15) (r.mark s.params (timeOperand s.params a)).smooth = n * 2 ^ r.e.toNat := by
    rcases hstage with hone | ⟨hrun, hv⟩
    · rw [CtRegs.sVal_mark_smooth_of_oneSample hp hone, hinterval]
    · rw [CtRegs.sVal_mark_smooth_of_running hp hrun, hinterval, hv, averageStep_of_fdiv_eq hread]
  rw [execCtUpdate_some hr] at hu
  cases hu
  have hanswer := execCtSmoothus_some (s := (s.setCt inst (r.mark s.params (timeOperand s.params a))).answer .ok 0)
    (getElem?_ct_setCt hr _)
  simp only [State.answer_params, State.setCt_params, CtRegs.mark_e, hsmooth, hread] at hanswer
  exact ⟨_, getElem?_ct_setCt hr _, hsmooth, hanswer⟩

/-- Settles O46, with the stage by the sign of CYCLE. -/
theorem ctUpdateByLifecycle : Obligations.CtUpdateByLifecycle := by
  intro s inst a b
  refine ⟨fun hinst => decode_of_oneInst_row (opc := 0x11) (fun i a _ => .ctUpdate i a) (by decide) hinst
      (fun c h => by simp only [decodeOpcode, h]) a b,
    rejectsFields_badOneInst (opc := 0x11) (by decide) (by decide) (by decide) s a b, fun r n v hr hn hv => ?_,
    onCt_none _⟩
  rw [hn, hv, execCtUpdate_some hr, ← CtRegs.lifecycle_eq_unseen_iff, ← CtRegs.lifecycle_eq_oneSample_iff,
    ← CtRegs.lifecycle_eq_running_iff]
  refine ⟨fun hunseen => ?_, fun hone => ?_, fun hrun => ?_⟩
  · rw [CtRegs.mark_of_unseen hunseen]
    rfl
  · rw [CtRegs.mark_of_oneSample hone]
    rfl
  · rw [CtRegs.mark_of_running hrun, CtRegs.average_eq]
    rfl

/-- Settles O54: a running reference is above the distance 0 of an equal length, and one in OneSample is below every
distance. -/
theorem ctSpeedcloseProperties : Obligations.CtSpeedcloseProperties := by
  intro s inst instb a p q hx hy
  rw [CtRegs.lifecycle_eq_running_iff, CtRegs.lifecycle_eq_oneSample_iff, execCtSpeedclose_some hx hy]
  refine ⟨fun hrun hsame => ?_, fun hone => ?_, fun hfar => ?_⟩
  · rw [hsame, sub_self, abs_zero, zero_mul, if_pos hrun.le]
    rfl
  · rw [if_neg (hone.trans_le (by positivity)).not_ge]
    rfl
  · rw [if_neg hfar.not_ge]
    rfl

/-- Settles O45, with the headers by the opcode's row and `rejectsFields_badOneInst`. -/
theorem ctInitForgetsTheCycle : Obligations.CtInitForgetsTheCycle := fun s inst a b =>
  ⟨fun hinst => decode_of_oneInst_row (opc := 0x10) (fun i _ _ => .ctInit i) (by decide) hinst
      (fun c h => by simp only [decodeOpcode, h]) a b,
    rejectsFields_badOneInst (opc := 0x10) (by decide) (by decide) (by decide) s a b, fun _ hr => execCtInit_some hr,
    onCt_none _⟩

/-- Settles O51, by the answer of each of the three commands. -/
theorem ctAccessorsAnswer : Obligations.CtAccessorsAnswer := fun s inst a b =>
  ⟨fun hinst =>
      ⟨decode_of_oneInst_row (opc := 0x12) (fun i _ _ => .ctIsvalid i) (by decide) hinst
        (fun c h => by simp only [decodeOpcode, h]) a b,
      decode_of_oneInst_row (opc := 0x14) (fun i _ _ => .ctCycleus i) (by decide) hinst
        (fun c h => by simp only [decodeOpcode, h]) a b,
      decode_of_oneInst_row (opc := 0x15) (fun i _ _ => .ctSmoothus i) (by decide) hinst
        (fun c h => by simp only [decodeOpcode, h]) a b⟩,
    rejectsFields_badOneInst (opc := 0x12) (by decide) (by decide) (by decide) s a b,
    rejectsFields_badOneInst (opc := 0x14) (by decide) (by decide) (by decide) s a b,
    rejectsFields_badOneInst (opc := 0x15) (by decide) (by decide) (by decide) s a b,
    fun _ hr => ⟨execCtIsvalid_some hr, execCtCycleus_some hr, execCtSmoothus_some hr⟩,
    fun hlen => ⟨readCt_none _ hlen, readCt_none _ hlen, readCt_none _ hlen⟩⟩

/-- Settles O52: the answer is the strict test in exact integers (`execCtIsrotating_some`). -/
theorem ctIsrotatingIsStrict : Obligations.CtIsrotatingIsStrict := fun s inst a b =>
  ⟨fun hinst => decodeEncodeRoundTrip (.ctIsrotating inst a b) (decide_eq_true hinst),
    rejectsFields_badOneInst (opc := 0x13) (by decide) (by decide) (by decide) s a b,
    fun _ hr => execCtIsrotating_some hr a b, readCt_none _⟩

/-- Settles O53: the comparison is that of the two lengths in microseconds (`CtRegs.smoothUs_eq`). -/
theorem ctComparisonsAnswer : Obligations.CtComparisonsAnswer := by
  intro s inst instb a b
  refine ⟨fun hinst hinstb => ⟨decode_ctSpeedclose hinst hinstb a b, decode_ctAvgclose hinst hinstb a b⟩,
    rejectsFields_badTwoInst (opc := 0x16) (by decide) s a b, rejectsFields_badTwoInst (opc := 0x17) (by decide) s a b,
    fun p q x y hp hq => ⟨?_, ?_⟩, fun hlen => ⟨readTwoCt_none _ hlen, readTwoCt_none _ hlen⟩⟩
  · rintro rfl rfl
    exact execCtSpeedclose_some hp hq a
  · rw [← CtRegs.smoothUs_eq, ← CtRegs.smoothUs_eq]
    intro hx hy
    rw [hx, hy]
    exact execCtAvgclose_some hp hq a

end Sys2Proof.Machine
end

section
/-! PROOFS. The register access statements (45_register_access.md, 20_memory.md R61, R62): the addresses of a block's
rows, what REG_RD reads and REG_WR writes on a row, and the order of their errors. -/

namespace Sys2Proof.Machine

/-! ### The addresses of the rows (R61, R62) -/

/-- The addresses of a block's rows. -/
def Block.addresses : Block → List Word
  | .pwc => pwcAddresses
  | .nec => necAddresses
  | .nv => nvAddresses
  | .zx => zxAddresses
  | .ct => ctAddresses

/-- The address list of a block holds its rows' addresses in R62's order. -/
theorem Block.addresses_eq (k : Block) : k.addresses = (Reg.all.filter (·.block = k)).map Reg.address := by
  cases k <;> rfl

theorem rwAddresses_eq : rwAddresses = (Reg.all.filter (·.access = .rw)).map Reg.address := rfl

theorem Block.mem_addresses_iff {k : Block} {a : Word} :
    a ∈ k.addresses ↔ ∃ g : Reg, g.block = k ∧ g.address = a := by
  simp only [addresses_eq, List.mem_map, List.mem_filter, Reg.mem_all, true_and, decide_eq_true_eq]

theorem Reg.address_mem_rwAddresses {g : Reg} (h : g.access = .rw) : g.address ∈ rwAddresses := by
  rw [rwAddresses_eq]
  exact List.mem_map_of_mem (List.mem_filter.2 ⟨g.mem_all, decide_eq_true h⟩)

theorem Block.exists_iff {P : Block → Prop} : (∃ k, P k) ↔ P .pwc ∨ P .nec ∨ P .nv ∨ P .zx ∨ P .ct := by
  refine ⟨fun ⟨k, hk⟩ => by cases k <;> simp only [hk, true_or, or_true], ?_⟩
  rintro (h | h | h | h | h) <;> exact ⟨_, h⟩

/-- An address is a row of R62 exactly where it is some row's address. -/
theorem isRegister_iff {a : Word} : isRegister a ↔ ∃ g : Reg, g.address = a :=
  calc isRegister a
    _ ↔ ∃ k : Block, a ∈ k.addresses := (Block.exists_iff (P := (a ∈ ·.addresses))).symm
    _ ↔ ∃ g : Reg, g.address = a := by simp only [Block.mem_addresses_iff, exists_comm, exists_eq_left']

/-- The row an address names has a block without the index. -/
theorem noSuchInstance_iff {s : State} {a : Word} {inst : Nat} :
    noSuchInstance s a inst ↔ ∃ g : Reg, g.address = a ∧ s.count g.block ≤ inst :=
  calc noSuchInstance s a inst
    _ ↔ ∃ k : Block, a ∈ k.addresses ∧ s.count k ≤ inst :=
      (Block.exists_iff (P := fun k => a ∈ k.addresses ∧ s.count k ≤ inst)).symm
    _ ↔ ∃ g : Reg, g.address = a ∧ s.count g.block ≤ inst := by
      simp only [Block.mem_addresses_iff]
      constructor
      · rintro ⟨_, ⟨g, rfl, ha⟩, hlen⟩
        exact ⟨g, ha, hlen⟩
      · rintro ⟨g, ha, hlen⟩
        exact ⟨_, ⟨g, rfl, ha⟩, hlen⟩

theorem lookupReg_eq_none {a : Word} (h : ¬ isRegister a) : lookupReg a = none :=
  Option.eq_none_iff_forall_ne_some.2 fun g hg => h (isRegister_iff.2 ⟨g, (lookupReg_eq_some_iff.1 hg).symm⟩)

/-! ### The errors (R230, R232, R242) -/

section
variable {s : State} {inst : Nat} {g : Reg} {a : Word}

theorem execRegRd_errReg (h : ¬ isRegister a) : exec (.regRd inst a) s = .next (s.answer .errReg 0) := by
  show execRegRd inst a s = _
  simp only [execRegRd, lookupReg_eq_none h, raiseError_eq]

theorem execRegRd_errInst (h : s.count g.block ≤ inst) :
    exec (.regRd inst g.address) s = .next (s.answer .errInst 0) := by
  show execRegRd inst g.address s = _
  simp only [execRegRd, lookupReg_address, (s.readReg_eq_none_iff g inst).2 h, raiseError_eq]

theorem execRegWr_errReg (h : ¬ isRegister a) (b : Word) :
    exec (.regWr inst a b) s = .next (s.answer .errReg 0) := by
  show execRegWr inst a b s = _
  simp only [execRegWr, lookupReg_eq_none h, raiseError_eq]

theorem execRegWr_errInst (h : s.count g.block ≤ inst) (b : Word) :
    exec (.regWr inst g.address b) s = .next (s.answer .errInst 0) := by
  show execRegWr inst g.address b s = _
  simp only [execRegWr, lookupReg_address, if_pos h, raiseError_eq]

theorem execRegWr_errRo (h : ¬ s.count g.block ≤ inst) (hg : g.access ≠ .rw) (b : Word) :
    exec (.regWr inst g.address b) s = .next (s.answer .errRo 0) := by
  show execRegWr inst g.address b s = _
  simp only [execRegWr, lookupReg_address, if_neg h, if_neg hg, raiseError_eq]

end

/-! ### One row read, and one row written -/

section
variable {s : State} {g : Reg} {inst : Nat} {α : Type} {l : List α} {r : α}

/-- REG_RD of a row, whose value is what `f` reads of the instance's registers in `l`, answers that value (R230). -/
theorem readsAs_row {f : α → Word} {v : Word} (hrow : s.readReg g inst = l[inst]?.map f) (hr : l[inst]? = some r)
    (hv : f r = v) : readsAs s inst g.address v :=
  execRegRd_some (by rw [hrow, hr, Option.map_some, hv])

/-- REG_WR of an RW row, whose effect modifies the instance's registers in `l` by `f`, sets them where the block has the
index; `put` is the state with another such list (R232). -/
theorem execRegWr_row {f : α → α} {b : Word} (put : List α → State)
    (hrow : s.writeReg g inst b = put (l.modify inst f)) (hr : l[inst]? = some r) (hg : g.access = .rw)
    (hcount : s.count g.block = l.length) :
    exec (.regWr inst g.address b) s = .next ((put (l.set inst (f r))).answer .ok 0) := by
  have hinst : inst < s.count g.block := hcount ▸ (List.getElem?_eq_some_iff.1 hr).1
  rw [execRegWr_of_rw hg hinst, hrow, List.modify_eq_set_getElem?, hr]
  rfl

end

/-- A pattern of the field's own width reads as itself, zero-extended. -/
theorem zext32_self {n : Nat} (v : BitVec n) : zext32 n v = v.setWidth 32 := by
  rw [zext32, BitVec.setWidth_eq]

/-- Settles O55: each row's read value by `readsAs_row`, the errors by the row the address names. -/
theorem regRdReadsTheMap : Obligations.RegRdReadsTheMap := by
  intro s inst a b
  refine ⟨fun hinst => decode_of_oneInst_row (opc := 0x1E) (fun i x _ => .regRd i x) (by decide) hinst
      (fun c h => by simp only [decodeOpcode, h]) a b,
    rejectsFields_badOneInst (opc := 0x1E) (by decide) (by decide) (by decide) s a b,
    fun r hr => ?pwc, fun r hr => ?nec, fun r hr => ?nv, fun r hr => ?zx, fun r hr => ?ct,
    execRegRd_errReg, fun hnone => ?errInst⟩
  case pwc =>
    exact ⟨readsAs_row (g := .pwcMin) rfl hr rfl, readsAs_row (g := .pwcMax) rfl hr rfl,
      readsAs_row (g := .pwcPrev) rfl hr rfl⟩
  case nec =>
    have hstate : zext32 1 r.state.code = if r.state = .collect then 1 else 0 := by cases r.state <;> rfl
    exact ⟨readsAs_row (g := .necHdr) rfl hr rfl, readsAs_row (g := .necOne) rfl hr rfl,
      readsAs_row (g := .necZero) rfl hr rfl, readsAs_row (g := .necTol) rfl hr rfl,
      readsAs_row (g := .necState) rfl hr hstate, readsAs_row (g := .necBitIdx) rfl hr (zext32_self _),
      readsAs_row (g := .necAcc) rfl hr rfl, readsAs_row (g := .necPrev) rfl hr rfl⟩
  case nv =>
    exact ⟨readsAs_row (g := .nvAnchor) rfl hr rfl, readsAs_row (g := .nvAnchorTol) rfl hr rfl,
      readsAs_row (g := .nvIdle) rfl hr rfl, readsAs_row (g := .nvPhase) rfl hr (by cases r.phase <;> rfl),
      readsAs_row (g := .nvSync) rfl hr rfl, readsAs_row (g := .nvPos) rfl hr (zext32_self _),
      readsAs_row (g := .nvPrevRise) rfl hr rfl, readsAs_row (g := .nvLastEdge) rfl hr rfl⟩
  case zx =>
    exact ⟨readsAs_row (g := .zxPrevT) rfl hr rfl, fun _ => readsAs_zxPrevF hr,
      readsAs_row (g := .zxLastX) rfl hr rfl⟩
  case ct =>
    exact ⟨readsAs_row (g := .ctE) rfl hr (zext32_self _), readsAs_row (g := .ctCycle) rfl hr rfl,
      readsAs_row (g := .ctLastMark) rfl hr rfl, readsAs_row (g := .ctSmoothLo) rfl hr rfl,
      readsAs_row (g := .ctSmoothHi) rfl hr rfl⟩
  case errInst =>
    obtain ⟨g, rfl, hlen⟩ := noSuchInstance_iff.1 hnone
    exact execRegRd_errInst hlen

/-- Settles O56: each RW row's effect by `execRegWr_row`, the errors by the row the address names. -/
theorem regWrWritesTheConfiguration : Obligations.RegWrWritesTheConfiguration := by
  intro s inst a b
  refine ⟨fun hinst => decodeEncodeRoundTrip (.regWr inst a b) (decide_eq_true hinst),
    rejectsFields_badOneInst (opc := 0x1F) (by decide) (by decide) (by decide) s a b,
    fun r hr => ?pwc, fun r hr => ?nec, fun r hr => ?nv, fun r hr => ?ct,
    fun hrow => execRegWr_errReg hrow b, fun hnone => ?errInst, fun hrow hsome hro => ?errRo⟩
  case pwc =>
    exact ⟨execRegWr_row (g := .pwcMin) (fun l => { s with pwc := l }) rfl hr rfl rfl,
      execRegWr_row (g := .pwcMax) (fun l => { s with pwc := l }) rfl hr rfl rfl⟩
  case nec =>
    exact ⟨execRegWr_nec (g := .necHdr) hr rfl rfl rfl, execRegWr_nec (g := .necOne) hr rfl rfl rfl,
      execRegWr_nec (g := .necZero) hr rfl rfl rfl, execRegWr_nec (g := .necTol) hr rfl rfl rfl⟩
  case nv => exact execRegWr_row (g := .nvIdle) (fun l => { s with nv := l }) rfl hr rfl rfl
  case ct => exact execRegWr_row (g := .ctE) (fun l => { s with ct := l }) rfl hr rfl rfl
  case errInst =>
    obtain ⟨g, rfl, hlen⟩ := noSuchInstance_iff.1 hnone
    exact execRegWr_errInst hlen b
  case errRo =>
    obtain ⟨g, rfl⟩ := isRegister_iff.1 hrow
    exact execRegWr_errRo (fun hlen => hsome (noSuchInstance_iff.2 ⟨g, rfl, hlen⟩))
      (fun hrw => hro (Reg.address_mem_rwAddresses hrw)) b

end Sys2Proof.Machine
end

section
/-! PROOFS. The exception statement (60_exceptions.md R241): what an answer with an error status says of the state. -/

namespace Sys2Proof.Machine

/-- A command whose response has an error status ended in the error and not in an update of its target: data 0, and
only the port moved. -/
theorem Answers.eq_answer_of_status_ne_ok {s t : State} {k : Option (Block × Nat)} {r : Response}
    (h : Answers s k (.next t)) (hport : t.port = .answered r) (hr : r.status ≠ .ok) : t = s.answer r.status 0 := by
  cases h with
  | error he =>
    cases hport
    rfl
  | ok hu d =>
    cases hport
    exact absurd rfl hr

/-- The edge that takes a response leaves the block idle as it was before it answered (R97). -/
theorem clockEdge_answer_of_rspReady {x : Pins} (hrst : x.rst = false) (hready : x.rspReady = true) (s : State)
    (st : Status) (d : Word) : clockEdge x (s.answer st d) = .next { s with port := .idle } := by
  rw [clockEdge_answered hrst rfl, if_pos hready]
  rfl

/-- Settles O8: a command, an illegal header among them, that did not answer OK ended in an error
(`runCommand_answers`), and the edge that takes its response idles the port. -/
theorem errorsChangeNoState : Obligations.ErrorsChangeNoState := by
  intro c s t r hrun hport hr
  obtain ⟨k, hk⟩ := runCommand_answers c s
  rw [hrun] at hk
  obtain rfl : t = s.answer r.status 0 := hk.eq_answer_of_status_ne_ok hport hr
  exact ⟨rfl, fun x hrst hready => ⟨clockEdge_answer_of_rspReady hrst hready s r.status 0, rfl⟩⟩

end Sys2Proof.Machine
end

section
/-! PROOFS. The reset and hazard statements (70_reset_and_hazards.md): what a reset edge and the reset values are (R270,
R271), and the NV decoder's premise-free start (R282). -/

namespace Sys2Proof.Machine

/-! ### A rising edge's references, whatever it does to the position (R151, R162, R282) -/

/-- Only a repeated timestamp is at distance 0: the two patterns count the same. -/
theorem interval_eq_zero_iff (tw : Nat) (t p : TimeReg) : interval tw t p = 0 ↔ uVal tw t = uVal tw p := by
  rw [interval_eq_toInt_sub, ← BitVec.toInt_zero (w := tw), BitVec.toInt_inj, uVal, uVal, BitVec.toNat_inj]
  exact sub_eq_zero

/-- The anchor, the optimistic advance and neither all leave the two references as the edge set them. -/
theorem NvRegs.advance_references (d : Int) (r : NvRegs) :
    (r.advance d).prevRise = r.prevRise ∧ (r.advance d).lastEdge = r.lastEdge := by
  unfold advance
  split
  · exact ⟨rfl, rfl⟩
  · split
    · exact ⟨rfl, rfl⟩
    · exact ⟨rfl, rfl⟩

section
variable {p : Params} {r : NvRegs} {t : TimeReg}

/-- After a rising edge PREVRISE counts as its timestamp: it took it, or the edge repeated it. -/
theorem NvRegs.uVal_edge_prevRise : uVal p.tw (r.edge p t true).prevRise = uVal p.tw t := by
  by_cases hrepeated : interval p.tw t r.prevRise = 0
  · rw [edge_repeated hrepeated, (interval_eq_zero_iff ..).1 hrepeated]
  · rw [edge_counted hrepeated, (advance_references ..).1]

theorem NvRegs.edge_lastEdge_of_counted (h : interval p.tw t r.prevRise ≠ 0) : (r.edge p t true).lastEdge = t := by
  rw [edge_counted h, (advance_references ..).2]

theorem NvRegs.edge_lastEdge_of_repeated (h : interval p.tw t r.prevRise = 0) :
    (r.edge p t true).lastEdge = r.lastEdge := by
  rw [edge_repeated h]

end

/-- Settles O39: NV_INIT drops the synchronisation and leaves the references, which the edge before it has set. -/
theorem nvPremiseFreeStart : Obligations.NvPremiseFreeStart := by
  intro s inst t r hp hr
  obtain ⟨-, htw, -, -⟩ := s.params.legal_iff.1 hp
  have hnv := getElem?_nv_setNv_answer hr (r.edge s.params (timeOperand s.params t) true) .ok
    ((r.edge s.params (timeOperand s.params t) true).phase.code.setWidth 32)
  refine ⟨_, _, _, execAll_cons (execNvEdge_of_edge hr rfl) (execAll_cons (execNvInit_some hnv) rfl),
    getElem?_nv_setNv_answer hnv _ _ _, rfl, rfl, rfl, ?prevRise, fun hcounted => ?counted, fun hrepeated => ?repeated⟩
  case prevRise => exact NvRegs.uVal_edge_prevRise.trans (uVal_lowBits _ _ _ _ htw)
  case counted => exact NvRegs.edge_lastEdge_of_counted ((interval_timeOperand htw t _).trans_ne hcounted)
  case repeated => exact NvRegs.edge_lastEdge_of_repeated ((interval_timeOperand htw t _).trans hrepeated)

/-! ### The reset edge (R270) -/

/-- While `rst = 1` nothing is ready and nothing valid, whatever the port holds. -/
theorem State.outputs_rst (s : State) : s.outputs true = ⟨false, false, none⟩ := by
  unfold outputs
  cases s.port with
  | idle => rfl
  | busy => rfl
  | answered => rfl

/-- A reset edge sees no more of the state than its parameters, its counts and what the host has yet to present. -/
theorem State.resetEdge_congr {s s' : State} (hp : s'.params = s.params) (hn : s'.counts = s.counts)
    (hc : s'.pending = s.pending) (d : Draws) : s'.resetEdge d = s.resetEdge d := by
  rw [resetEdge, resetEdge, hp, hn, hc]

/-- Settles O9: a reset edge is `State.resetEdge` (`clockEdge_rst`), which holds none of the old registers. -/
theorem resetEdgeClearsEverything : Obligations.ResetEdgeClearsEverything := by
  intro x s hrst
  refine ⟨clockEdge_rst hrst s, rfl, rfl, State.resetWith_counts .., s.outputs_rst, fun s' hp hn hc => ?_⟩
  rw [clockEdge_rst hrst, clockEdge_rst hrst, State.resetEdge_congr hp hn hc]

/-! ### The reset values (R271) -/

/-- The `k`-th instance of a block of `n` holds what its reset gives it. -/
theorem getElem?_map_range {α : Type} (f : Nat → α) {n k : Nat} (h : k < n) :
    ((List.range n).map f)[k]? = some (f k) := by
  rw [List.getElem?_map, List.getElem?_range h, Option.map_some]

/-- A pattern of a field's width is its own low bits, so a draw can be any of them. -/
theorem lowBits_of_toNat_lt {w m : Nat} {v : BitVec m} (h : v.toNat < 2 ^ w) : (lowBits w v : BitVec m) = v := by
  apply BitVec.eq_of_toNat_eq
  rw [lowBits, BitVec.toNat_setWidth, BitVec.toNat_setWidth, Nat.mod_eq_of_lt h, Nat.mod_eq_of_lt v.isLt]

/-- Settles O12: every index of a block holds what that block's reset gives it (`getElem?_map_range`), and the hardwired
rows answer for each index of NV. -/
theorem resetValues : Obligations.ResetValues := by
  intro p n d
  refine ⟨State.resetWith_counts p n d, rfl, rfl, fun _ hk => getElem?_map_range (PwcRegs.reset p d) hk,
    fun _ hk => getElem?_map_range (NecRegs.reset p d) hk, fun _ hk => getElem?_map_range (NvRegs.reset p d) hk,
    fun _ hk => getElem?_map_range (ZxRegs.reset p d) hk, fun _ hk => getElem?_map_range (CtRegs.reset p d) hk,
    fun k hk => ?anchor, fun _ _ _ hv => lowBits_of_toNat_lt hv⟩
  case anchor =>
    have hnv : (State.resetWith p n d).nv[k]? = some (NvRegs.reset p d k) := getElem?_map_range _ hk
    exact ⟨readsAs_row (g := .nvAnchor) rfl hnv rfl, readsAs_row (g := .nvAnchorTol) rfl hnv rfl⟩

end Sys2Proof.Machine
end
